-- ==== Sys2Proof/Word.lean ====
section
/-! DEFINITION. The word types of EMSRX (00_scope.md R8): a byte of the stream, a 16-bit status code, a 32-bit record word. -/
namespace Sys2Proof

/-- An 8-bit unsigned value, bit 7 the most significant (R8). -/
abbrev Byte := BitVec 8

/-- A 16-bit status code, the first character in bits 15:8 (R48, R154). -/
abbrev Half := BitVec 16

/-- A 32-bit record word (R70). -/
abbrev Word := BitVec 32

end Sys2Proof
end

