-- ==== Sys2Proof/Config.lean ====
section
/-! DEFINITION. The configuration record CFG of EMSRX (00_scope.md R5) as plain data, its fixed constants, the spec's test
configuration, and the free values. Every OPEN parameter is a field of `Cfg`; State carries one `Cfg`, so a statement about
every state holds for every configuration. -/
namespace Sys2Proof

/-- The frame kinds that have a decoder (30_encoding.md R65). -/
inductive Kind where
  | fast
  | slow
  | dhw
  | room
  deriving DecidableEq, Repr

/-- How a field's bytes become a value (30_encoding.md R67). -/
inductive FieldKind where
  /-- unsigned integer -/
  | int
  /-- unsigned integer times `s`, carried in hundredths -/
  | scaled (s : Nat)
  /-- two bytes read as characters -/
  | chars2
  deriving DecidableEq, Repr

/-- One LAYOUT entry (43_dispatch_conversion.md R155). `offset` is a frame index, `width` a number of bytes. -/
structure Field where
  offset : Nat
  width : Nat
  kind : FieldKind
  deriving DecidableEq, Repr

/-- The FAST fields in record order (R156, R71). -/
structure FastLayout where
  requestedFlowTemperature : Field
  flowTemperature : Field
  requestedBurnerPower : Field
  actualBurnerPower : Field
  boilerTemperature : Field
  flowReturnTemperature : Field
  ionisationCurrent : Field
  pressure : Field
  statusCode : Field
  errorCode : Field
  deriving DecidableEq, Repr

/-- The SLOW fields in record order (R156, R72). -/
structure SlowLayout where
  burnerOutletTemperature : Field
  pumpDutyCycle : Field
  burnerStarts : Field
  burnerRuntime : Field
  heatingRuntime : Field
  deriving DecidableEq, Repr

/-- The DHW fields in record order (R156, R73). -/
structure DhwLayout where
  boilerTemperature : Field
  hotWaterOutletTemperature : Field
  hotWaterFlowRate : Field
  deriving DecidableEq, Repr

/-- The ROOM fields in record order (R156, R74). -/
structure RoomLayout where
  setpoint : Field
  actual : Field
  deriving DecidableEq, Repr

/-- The LAYOUT table (R155, R156). -/
structure Layout where
  fast : FastLayout
  slow : SlowLayout
  dhw : DhwLayout
  room : RoomLayout
  deriving DecidableEq, Repr

/-- The OPEN parameters of CFG (R5). `effTable` lists the entries for the integers 10, 11, ... 100, in hundredths of a percent;
`statusTable` is the finite map from code to text. -/
structure Cfg where
  maxRawLen : Nat
  typeFast : Byte
  typeSlow : Byte
  typeDhw : Byte
  lenSlow : Nat
  lenDhw : Nat
  layout : Layout
  statusTable : List (Half × String)
  effTable : List Nat
  deriving DecidableEq, Repr

/-! The parameters R5 fixes. -/

/-- MIN_FRAME_LEN. -/
abbrev minFrameLen : Nat := 5
/-- CRC_CONST, never to be generalised (42_crc.md R134). -/
abbrev crcConst : Byte := 0x0C
/-- TYPE_ROOM. -/
abbrev typeRoom : Byte := 0x91
/-- LEN_FAST. -/
abbrev lenFast : Nat := 30
/-- LEN_ROOM. -/
abbrev lenRoom : Nat := 19
/-- SYS_IDLE. -/
abbrev sysIdle : BitVec 2 := 0
/-- SYS_HEATING. -/
abbrev sysHeating : BitVec 2 := 1
/-- SYS_HOTWATER. -/
abbrev sysHotWater : BitVec 2 := 2

/-- TESTCFG of 95_test_vectors.md section 1.2: the one complete configuration the spec writes down. It is not the reference's
configuration. `State.reset` names it (DESIGN CHOICE, unsafe, log entry 1); no meaning mentions it. -/
def Cfg.test : Cfg where
  maxRawLen := 64
  typeFast := 0x18
  typeSlow := 0x19
  typeDhw := 0x34
  lenSlow := 30
  lenDhw := 20
  layout :=
    { fast :=
        { requestedFlowTemperature := ⟨4, 1, .int⟩
          flowTemperature := ⟨5, 2, .scaled 10⟩
          requestedBurnerPower := ⟨7, 1, .int⟩
          actualBurnerPower := ⟨8, 1, .int⟩
          boilerTemperature := ⟨15, 2, .scaled 10⟩
          flowReturnTemperature := ⟨17, 2, .scaled 10⟩
          ionisationCurrent := ⟨19, 2, .scaled 10⟩
          pressure := ⟨21, 1, .scaled 10⟩
          statusCode := ⟨22, 2, .chars2⟩
          errorCode := ⟨24, 2, .int⟩ }
      slow :=
        { burnerOutletTemperature := ⟨8, 2, .scaled 10⟩
          pumpDutyCycle := ⟨13, 1, .int⟩
          burnerStarts := ⟨14, 3, .int⟩
          burnerRuntime := ⟨17, 3, .int⟩
          heatingRuntime := ⟨23, 3, .int⟩ }
      dhw :=
        { boilerTemperature := ⟨5, 2, .scaled 10⟩
          hotWaterOutletTemperature := ⟨7, 2, .scaled 10⟩
          hotWaterFlowRate := ⟨13, 1, .scaled 10⟩ }
      room :=
        { setpoint := ⟨5, 1, .scaled 50⟩
          actual := ⟨6, 2, .scaled 10⟩ } }
  statusTable := [(0x2D48, "-H"), (0x3D48, "=H"), (0x3048, "0H")]
  effTable := List.replicate 36 9700 ++ List.replicate 55 9620

/-! The free values. The spec leaves `buf` and `pend_rec` unspecified at reset (10_state.md R35; 93_implementation_defined.md:
'any value', never read). Each has no body, so nothing can be proved of its value. Log entry 2. -/

/-- The byte at index `i` of `buf` after the `n`-th RESET operation. -/
opaque Config.freeByte : Nat → Nat → Byte

/-- The contents of `pend_rec` after the `n`-th RESET operation. -/
opaque Config.freeRecord : Nat → List Word

end Sys2Proof
end

