-- ==== Sys2Proof/Syntax.lean ====
section
/-! DEFINITION. The operations of EMSRX: one constructor per row of spec/opcode_table.json (00_scope.md R2: EMSRX has no
instruction set; its operations take the place of instructions). -/
namespace Sys2Proof

/-- The Frame Synchronizer's state (10_state.md R21). With the input byte it selects a `sync_byte` row (30_encoding.md R61),
so it is part of those rows' encoding. -/
inductive Sync where
  /-- no part of a break marker is pending -/
  | normal
  /-- the last byte was an FF not yet appended -/
  | sawFf
  /-- the last two bytes were FF 00, not yet appended -/
  | sawFf00
  /-- value 3, unreachable; a byte step that finds it faults -/
  | reserved
  deriving DecidableEq, Repr

/-- The operations. A LIT row carries the literal input byte; every other row's operands stand in the state. -/
inductive Instr where
  /-- SYNC_N_FF, R100 -/
  | syncNFf
  /-- SYNC_N_LIT, R106 -/
  | syncNLit (b : Byte)
  /-- SYNC_F_00, R101 -/
  | syncF00
  /-- SYNC_F_LIT, R107 -/
  | syncFLit (b : Byte)
  /-- SYNC_FZ_BRK, R103 -/
  | syncFzBrk
  /-- SYNC_FZ_LIT, R102 -/
  | syncFzLit (b : Byte)
  /-- BREAK, R105 -/
  | brk
  /-- PROCESS_FRAME, R140 -/
  | processFrame
  /-- DESTUFF, R120 -/
  | destuff
  /-- CRC_CHECK, R131 -/
  | crcCheck
  /-- FRAME_FAST, R160 -/
  | frameFast
  /-- FRAME_SLOW, R170 -/
  | frameSlow
  /-- FRAME_DHW, R175 -/
  | frameDhw
  /-- FRAME_ROOM, R178 -/
  | frameRoom
  /-- FRAME_UNREGISTERED, R153 -/
  | frameUnregistered
  /-- DECODE_PRECOND, R150 -/
  | decodePrecond
  /-- EFFICIENCY, R180 -/
  | efficiency
  /-- EFFICIENCY_DOMAIN_ERROR, R181 -/
  | efficiencyDomainError
  /-- SINK_TAKE, R34 -/
  | sinkTake
  /-- RESET, R220 -/
  | reset
  deriving DecidableEq, Repr

end Sys2Proof
end

