-- ==== Sys2Proof/WellFormed.lean ====
section
/-! DEFINITION. Well-formed operations: a LIT row's byte is of a class the row's cell admits (30_encoding.md R61). -/
namespace Sys2Proof

/-- The byte condition of each `sync_byte` row: `b != FF` in SYNC_N_LIT (R106), `b != 00` in SYNC_F_LIT (R107) and
SYNC_FZ_LIT (R102). The other rows have no operand field. -/
def Instr.wf : Instr → Bool
  | .syncNFf => true
  | .syncNLit b => b != 0xFF
  | .syncF00 => true
  | .syncFLit b => b != 0x00
  | .syncFzBrk => true
  | .syncFzLit b => b != 0x00
  | .brk => true
  | .processFrame => true
  | .destuff => true
  | .crcCheck => true
  | .frameFast => true
  | .frameSlow => true
  | .frameDhw => true
  | .frameRoom => true
  | .frameUnregistered => true
  | .decodePrecond => true
  | .efficiency => true
  | .efficiencyDomainError => true
  | .sinkTake => true
  | .reset => true

end Sys2Proof
end

