-- ==== Sys2Proof/Decode.lean ====
section
/-! DEFINITION. What selects an operation, and the encoder. EMSRX has four selectors, one per row format of the opcode table:
the pair (sync, input byte) for `sync_byte` rows (30_encoding.md R61), the stage number or the temperature for `frame_stage`
rows, the type byte and length of a destuffed frame for `frame_type` rows (R65), the port levels for the handshake and control
rows (10_state.md R32). -/
namespace Sys2Proof

/-- Why a code selects no operation. -/
inductive DecodeError where
  /-- the pair's state is value 3 of `sync` (R21) -/
  | reservedSync
  /-- the opcode table numbers the stages 1 to 4 -/
  | noSuchStage
  /-- neither reset nor a Sink handshake is asserted (R34, R220) -/
  | noHandshake
  deriving DecidableEq, Repr

/-- What a selector answers: an operation or a named rejection. -/
inductive DecodeResult where
  | ok (i : Instr)
  | err (e : DecodeError)
  deriving DecidableEq, Repr

/-- A code: the selector of one row of the opcode table with its contents. -/
inductive Code where
  /-- `sync_byte`: the synchronizer's state and `in_data` -/
  | byte (sync : Sync) (b : Byte)
  /-- `frame_stage`: the stage number -/
  | stage (n : Nat)
  /-- `frame_stage` inside Decode_FAST: the temperature `T` in hundredths -/
  | temp (t : Nat)
  /-- `frame_type`: the type byte `f[2]` and the destuffed length -/
  | frame (t : Byte) (n : Nat)
  /-- handshake and control: `rst`, `rec_valid`, `rec_ready` -/
  | ports (rst recValid recReady : Bool)
  deriving DecidableEq, Repr

/-- The 2-bit encoding of `sync` (R21). -/
def syncBits : Sync → BitVec 2
  | .normal => 0
  | .sawFf => 1
  | .sawFf00 => 2
  | .reserved => 3

/-- The synchronizer's decode map (R61), total on every byte in every named state (R60). -/
def decodeByte (sy : Sync) (b : Byte) : DecodeResult :=
  match sy with
  | .normal => if b = 0xFF then .ok .syncNFf else .ok (.syncNLit b)
  | .sawFf => if b = 0x00 then .ok .syncF00 else .ok (.syncFLit b)
  | .sawFf00 => if b = 0x00 then .ok .syncFzBrk else .ok (.syncFzLit b)
  | .reserved => .err .reservedSync

/-- The four stages the opcode table numbers. -/
def decodeStage (n : Nat) : DecodeResult :=
  match n with
  | 1 => .ok .brk
  | 2 => .ok .processFrame
  | 3 => .ok .destuff
  | 4 => .ok .crcCheck
  | _ => .err .noSuchStage

/-- TYPE_k (R5). -/
def Cfg.typeOf (c : Cfg) : Kind → Byte
  | .fast => c.typeFast
  | .slow => c.typeSlow
  | .dhw => c.typeDhw
  | .room => typeRoom

/-- LEN_k (R5). -/
def Cfg.lenOf (c : Cfg) : Kind → Nat
  | .fast => lenFast
  | .slow => c.lenSlow
  | .dhw => c.lenDhw
  | .room => lenRoom

/-- Registry (43_dispatch_conversion.md R153): `none` is UNREGISTERED. -/
def registry (c : Cfg) (t : Byte) : Option Kind :=
  if t = c.typeFast then some .fast
  else if t = c.typeSlow then some .slow
  else if t = c.typeDhw then some .dhw
  else if t = typeRoom then some .room
  else none

/-- The row of the decoder of a kind (R65). -/
def kindRow : Kind → Instr
  | .fast => .frameFast
  | .slow => .frameSlow
  | .dhw => .frameDhw
  | .room => .frameRoom

/-- The `frame_type` row of a frame with type byte `t` and length `n` (R65, R150, R153). -/
def decodeFrame (c : Cfg) (t : Byte) (n : Nat) : Instr :=
  match registry c t with
  | none => .frameUnregistered
  | some k => if n = c.lenOf k then kindRow k else .decodePrecond

/-- Whether the temperature `t` in hundredths is outside the domain of the efficiency table (44_decoders.md R181). -/
def effOutOfDomain (t : Nat) : Bool := decide (t < 1000) || decide (10000 ≤ t)

/-- The efficiency row of a temperature (R180, R181). -/
def decodeTemp (t : Nat) : Instr :=
  if effOutOfDomain t then .efficiencyDomainError else .efficiency

/-- Reset goes before the handshake: while `rst = 1` no record is offered (70_reset_and_hazards.md R220, 10_state.md R34). -/
def decodePorts (rst recValid recReady : Bool) : DecodeResult :=
  if rst then .ok .reset
  else if recValid && recReady then .ok .sinkTake
  else .err .noHandshake

/-- The operation a code selects under a configuration. -/
def decode (c : Cfg) : Code → DecodeResult
  | .byte sy b => decodeByte sy b
  | .stage n => decodeStage n
  | .temp t => .ok (decodeTemp t)
  | .frame t n => .ok (decodeFrame c t n)
  | .ports r v y => decodePorts r v y

/-- The least of the byte values 0 to 4 that no type code takes: five values, and 0x91 is none of them, so one is free. -/
def unregisteredType (c : Cfg) : Byte :=
  (([0, 1, 2, 3, 4] : List Byte).find? (fun b => (registry c b).isNone)).getD 0

/-- A code that selects the operation, from the same tables. Of the many codes of a row whose operands stand in the state, one. -/
def encode (c : Cfg) : Instr → Code
  | .syncNFf => .byte .normal 0xFF
  | .syncNLit b => .byte .normal b
  | .syncF00 => .byte .sawFf 0x00
  | .syncFLit b => .byte .sawFf b
  | .syncFzBrk => .byte .sawFf00 0x00
  | .syncFzLit b => .byte .sawFf00 b
  | .brk => .stage 1
  | .processFrame => .stage 2
  | .destuff => .stage 3
  | .crcCheck => .stage 4
  | .frameFast => .frame (c.typeOf .fast) (c.lenOf .fast)
  | .frameSlow => .frame (c.typeOf .slow) (c.lenOf .slow)
  | .frameDhw => .frame (c.typeOf .dhw) (c.lenOf .dhw)
  | .frameRoom => .frame (c.typeOf .room) (c.lenOf .room)
  | .frameUnregistered => .frame (unregisteredType c) minFrameLen
  | .decodePrecond => .frame (c.typeOf .room) (c.lenOf .room + 1)
  | .efficiency => .temp 1000
  | .efficiencyDomainError => .temp 999
  | .sinkTake => .ports false true true
  | .reset => .ports true false false

/-- The operation an input byte selects in the state after reset, NORMAL. The opcode table's rows are one byte wide; the
remaining rows that share a byte value are selected by another synchronizer state, or by no input byte. Log entry 7. -/
def decodeTableWord (nbits w : Nat) : Option Instr :=
  if nbits ≤ 8 ∧ w < 256 then
    match decodeByte .normal (BitVec.ofNat 8 w) with
    | .ok i => some i
    | .err _ => none
  else none

end Sys2Proof
end

