-- ==== Sys2Proof/Machine/Configuration.lean ====
section
/-! DEFINITION. When a configuration is well-formed (00_scope.md R6, 43_dispatch_conversion.md R155). -/
namespace Sys2Proof.Machine

/-- A field's kind meets R155: a scale is 1 to 100 hundredths, a character pair is two bytes. -/
def fieldKindOk (f : Field) : Bool :=
  match f.kind with
  | .int => true
  | .scaled s => decide (1 ≤ s ∧ s ≤ 100)
  | .chars2 => f.width == 2

/-- R155's range constraints: inside the data portion, clear of the CRC byte, 1 to 3 bytes wide. -/
def fieldOk (len : Nat) (f : Field) : Bool :=
  decide (4 ≤ f.offset ∧ f.offset + f.width + 1 ≤ len ∧ 1 ≤ f.width ∧ f.width ≤ 3 ∧ fieldKindOk f = true)

/-- The field is `CHARS2`. -/
def isChars2 (f : Field) : Bool :=
  match f.kind with
  | .chars2 => true
  | _ => false

/-- The field is `SCALED(s)` for some `s`. -/
def isScaled (f : Field) : Bool :=
  match f.kind with
  | .scaled _ => true
  | _ => false

/-- A field that may not be read as characters (R155: FAST `StatusCode` is `CHARS2`, and no other field is). -/
def plainFieldOk (len : Nat) (f : Field) : Bool := decide (fieldOk len f = true ∧ isChars2 f = false)

/-- R155 for the FAST fields. -/
def fastLayoutOk (l : FastLayout) : Bool :=
  decide (plainFieldOk lenFast l.requestedFlowTemperature = true ∧
    plainFieldOk lenFast l.flowTemperature = true ∧ isScaled l.flowTemperature = true ∧
    plainFieldOk lenFast l.requestedBurnerPower = true ∧
    plainFieldOk lenFast l.actualBurnerPower = true ∧
    plainFieldOk lenFast l.boilerTemperature = true ∧
    plainFieldOk lenFast l.flowReturnTemperature = true ∧ isScaled l.flowReturnTemperature = true ∧
    plainFieldOk lenFast l.ionisationCurrent = true ∧
    plainFieldOk lenFast l.pressure = true ∧
    fieldOk lenFast l.statusCode = true ∧ isChars2 l.statusCode = true ∧
    plainFieldOk lenFast l.errorCode = true)

/-- R155 for the SLOW fields. -/
def slowLayoutOk (len : Nat) (l : SlowLayout) : Bool :=
  decide (plainFieldOk len l.burnerOutletTemperature = true ∧
    plainFieldOk len l.pumpDutyCycle = true ∧
    plainFieldOk len l.burnerStarts = true ∧
    fieldOk len l.burnerRuntime = true ∧ l.burnerRuntime.kind = .int ∧
    fieldOk len l.heatingRuntime = true ∧ l.heatingRuntime.kind = .int)

/-- R155 for the DHW fields. -/
def dhwLayoutOk (len : Nat) (l : DhwLayout) : Bool :=
  decide (plainFieldOk len l.boilerTemperature = true ∧ plainFieldOk len l.hotWaterOutletTemperature = true ∧
    plainFieldOk len l.hotWaterFlowRate = true)

/-- R155 for the ROOM fields: the source fixes their widths and scales. -/
def roomLayoutOk (l : RoomLayout) : Bool :=
  decide (fieldOk lenRoom l.setpoint = true ∧ l.setpoint.width = 1 ∧ l.setpoint.kind = .scaled 50 ∧
    fieldOk lenRoom l.actual = true ∧ l.actual.width = 2 ∧ l.actual.kind = .scaled 10)

/-- The four type codes are pairwise distinct (R6). -/
def typesOk (c : Cfg) : Bool :=
  decide (c.typeFast ≠ c.typeSlow ∧ c.typeFast ≠ c.typeDhw ∧ c.typeFast ≠ typeRoom ∧ c.typeSlow ≠ c.typeDhw ∧
    c.typeSlow ≠ typeRoom ∧ c.typeDhw ≠ typeRoom)

/-- Every length is at least MIN_FRAME_LEN and the buffer holds twice the longest frame (R6). -/
def lengthsOk (c : Cfg) : Bool :=
  decide (minFrameLen ≤ c.lenSlow ∧ minFrameLen ≤ c.lenDhw ∧ 2 * lenFast ≤ c.maxRawLen ∧ 2 * c.lenSlow ≤ c.maxRawLen ∧
    2 * c.lenDhw ≤ c.maxRawLen ∧ 2 * lenRoom ≤ c.maxRawLen)

/-- EFF_TABLE has the 91 entries 10..100, each below 2^24 (R6), with the two entries R5 fixes (DEDUCED, log entry 8). -/
def effTableOk (t : List Nat) : Bool :=
  decide (t.length = 91 ∧ t.all (fun e => decide (e < 16777216)) = true ∧ t[35]? = some 9700 ∧ t[36]? = some 9620)

/-- A well-formed configuration (R6). -/
def cfgWf (c : Cfg) : Bool :=
  decide (typesOk c = true ∧ lengthsOk c = true ∧ fastLayoutOk c.layout.fast = true ∧
    slowLayoutOk c.lenSlow c.layout.slow = true ∧ dhwLayoutOk c.lenDhw c.layout.dhw = true ∧
    roomLayoutOk c.layout.room = true ∧ effTableOk c.effTable = true)

end Sys2Proof.Machine
end

