-- ==== Sys2Proof/Machine/State.lean ====
section
/-! DEFINITION. The state of EMSRX as plain data (10_state.md section 1), the reasons a step can stop, and the state after
reset (70_reset_and_hazards.md R220, 10_state.md R35). -/
namespace Sys2Proof.Machine

/-- The events of 60_exceptions.md R201. The reserved codes are never produced (R66), so they have no constructor. -/
inductive Event where
  | frameShort
  | frameOverflow
  | crcMismatch
  | typeUnregistered
  | decodePrecond
  | decoded
  | decodedEffError
  deriving DecidableEq, Repr

/-- Why a step faults: the model-only faults of 60_exceptions.md R211. None is reachable from reset. -/
inductive Fault where
  /-- A byte step found `sync = 3` (10_state.md R21). Raised by the SYNC rows and by `step`. Safe: the hardware never enters it. -/
  | unreachableSyncState
  /-- `FrameRead` outside `0 <= i < n` (20_memory.md R41). Raised by CRC_CHECK, the `frame_type` rows, PROCESS_FRAME and BREAK
  on a frame shorter than the synchronizer can hand over. Safe: unreachable under a well-formed configuration. -/
  | frameReadOutOfRange
  deriving DecidableEq, Repr

/-- Why there is no meaning. -/
inductive Refusal where
  /-- An operation whose arm in `exec` has no meaning yet. Safe. -/
  | notModelled (mnemonic : String)
  /-- The configuration breaks 00_scope.md R6; the spec gives it no semantics. Raised by `step` and every operation. Safe. -/
  | illFormedConfig
  /-- The handshake that enables the operation is absent: a byte or an emission while a record waits (10_state.md R33, R27), or
  a Sink acceptance with none waiting (R34). Raised by SYNC rows, BREAK, PROCESS_FRAME and SINK_TAKE run on their own; `step`
  never selects them there. Safe. -/
  | notEnabled
  /-- The row's own condition of the opcode table does not hold, so another row is selected (R61, R65, R181). Raised by SYNC
  rows, FRAME_UNREGISTERED, DECODE_PRECOND and EFFICIENCY_DOMAIN_ERROR run on their own; `step` never selects them there. Safe. -/
  | notSelected
  deriving DecidableEq, Repr

/-- What a decoder returns (43_dispatch_conversion.md R150): the empty record, or a record's words with its event. -/
inductive Decoded where
  | empty
  | record (words : List Word) (code : Event)
  deriving DecidableEq, Repr

/-- The transient values of one frame (10_state.md R30). They are no architectural state: they live only inside the step that
confirms a break, and are idle between steps. Log entry 5. -/
structure Work where
  /-- the raw candidate handed to ProcessFrame (R105, R140) -/
  raw : List Byte
  /-- the destuffed frame `f` (R120) -/
  frame : List Byte
  /-- the CRC accumulator (R130) -/
  crc : Byte
  /-- the temperature `T` in hundredths that Efficiency reads (R180) -/
  temp : Nat
  /-- the efficiency in units of 0.0001 percent (R180) -/
  eff : Word
  /-- `eff_error` (R181) -/
  effError : Bool
  /-- the record under construction (R150) -/
  result : Decoded
  deriving DecidableEq, Repr

/-- No frame in progress. -/
def Work.idle : Work where
  raw := []
  frame := []
  crc := 0
  temp := 0
  eff := 0
  effError := false
  result := .empty

/-- The levels the environment drives on the input ports in one step (10_state.md R32). `inValid` is the Byte Source's
willingness to offer the head of `source`, so `in_valid = 1` when it holds and `source` is not empty. -/
structure Drive where
  rst : Bool
  inValid : Bool
  recReady : Bool
  deriving DecidableEq, Repr

/-- The levels in a step for which the environment's plan says nothing: the Byte Source offers what it has, the Sink does not
accept, no reset. DESIGN CHOICE, log entry 4. -/
def Drive.quiet : Drive := ⟨false, true, false⟩

/-- The state. The first block is the architectural state of R20; the rest is the model's own. -/
structure State where
  /-- the synchronizer's state (R21) -/
  sync : Sync
  /-- the frame-accumulation buffer, MAX_RAW_LEN bytes (R22) -/
  buf : List Byte
  /-- the number of bytes `buf` holds (R22) -/
  cnt : Nat
  /-- the overflow mark (R23) -/
  ovf : Bool
  /-- the output slot is full (R27) -/
  pendValid : Bool
  /-- the record in the output slot (R27, R70) -/
  pendRec : List Word
  /-- the event port in the step just made: `none` is `evt_valid = 0` (R28, R32) -/
  evt : Option Event
  /-- every event so far, oldest first (R28, R228) -/
  events : List Event
  /-- every record the Sink accepted, oldest first (R228) -/
  accepted : List (List Word)
  /-- the transient values of one frame (R30) -/
  work : Work
  /-- the configuration, never written (R5, R29, R31) -/
  cfg : Cfg
  /-- the bytes the Byte Source has still to offer (R25, R32) -/
  source : List Byte
  /-- the input levels of the coming steps (R32) -/
  drive : List Drive
  /-- the number of RESET operations so far; indexes the free values -/
  freeCtr : Nat
  deriving DecidableEq, Repr

/-- The machine right after reset under the configuration `c` (R220, R35): no byte offered, nothing recorded. `buf` and
`pend_rec` are unspecified in the spec; zero bytes and the empty sequence are the model's named values (log entry 3). -/
def State.resetWith (c : Cfg) : State where
  sync := .normal
  buf := List.replicate c.maxRawLen 0
  cnt := 0
  ovf := false
  pendValid := false
  pendRec := []
  evt := none
  events := []
  accepted := []
  work := .idle
  cfg := c
  source := []
  drive := []
  freeCtr := 0

/-- The machine right after reset under the spec's test configuration (log entry 1). -/
def State.reset : State := State.resetWith Cfg.test

end Sys2Proof.Machine
end

