-- ==== Sys2Proof/Machine/Operands.lean ====
section
/-! DEFINITION. Reading a frame and converting its fields (20_memory.md R41, 43_dispatch_conversion.md R151 to R155). A read
out of range answers `none`; the meanings turn it into the fault of R211. -/
namespace Sys2Proof.Machine

/-- `FrameRead(f, i)` (R41). -/
def frameRead (f : List Byte) (i : Nat) : Option Byte := f[i]?

/-- `FrameRead(f, i, k)` (R41): the bytes at `i` to `i+k-1`. -/
def frameReadN (f : List Byte) (i : Nat) : Nat → Option (List Byte)
  | 0 => some []
  | k + 1 =>
    match frameRead f i with
    | none => none
    | some b =>
      match frameReadN f (i + 1) k with
      | none => none
      | some bs => some (b :: bs)

/-- The big-endian accumulation of R151's loop (20_memory.md R42). -/
def bigEndian (s : List Byte) : Nat := s.foldl (fun v b => v * 256 + b.toNat) 0

/-- `ToInt` (R151): a width other than 1, 2 or 3 gives 0. -/
def toInt (s : List Byte) : Nat :=
  match s.length with
  | 1 => bigEndian s
  | 2 => bigEndian s
  | 3 => bigEndian s
  | _ => 0

/-- `ToScaled` with scale `k/100` (R152), in hundredths. -/
def toScaled (s : List Byte) (k : Nat) : Nat := toInt s * k

/-- `ToChars2` (R154): the first character in bits 15:8. -/
def toChars2 (c0 c1 : Byte) : Half := c0 ++ c1

/-- `Conv(F)` (44_decoders.md, R67): the field's value by its LAYOUT kind. -/
def conv (f : List Byte) (fld : Field) : Option Nat :=
  match fld.kind with
  | .int =>
    match frameReadN f fld.offset fld.width with
    | none => none
    | some bs => some (toInt bs)
  | .scaled k =>
    match frameReadN f fld.offset fld.width with
    | none => none
    | some bs => some (toScaled bs k)
  | .chars2 =>
    match frameRead f fld.offset with
    | none => none
    | some c0 =>
      match frameRead f (fld.offset + 1) with
      | none => none
      | some c1 => some (toChars2 c0 c1).toNat

/-- A field's record word (30_encoding.md R75): the value zero-extended to 32 bits. -/
def fieldWord (v : Nat) : Word := BitVec.ofNat 32 v

/-- A signed derived value as its two's-complement word (R75, R161, R171). -/
def signedWord (v : Int) : Word := BitVec.ofInt 32 v

/-- `Destuff` (41_destuffer.md R120): left to right, pairs do not overlap, the output is not scanned again. -/
def destuff : List Byte → List Byte
  | [] => []
  | [x] => [x]
  | x :: y :: r => if x = 0xFF ∧ y = 0xFF then 0xFF :: destuff r else x :: destuff (y :: r)

/-- `CrcStep` (42_crc.md R130), line by line. -/
def crcStep (crc b : Byte) : Byte :=
  let hi := crc.getLsbD 7
  let x := if hi then crc ^^^ crcConst else crc
  let d : Byte := if hi then 1 else 0
  let y := x <<< 1
  let z := y &&& 0xFE
  (z ||| d) ^^^ b

/-- `Crc` (R130). -/
def crc (s : List Byte) : Byte := s.foldl crcStep 0x00

end Sys2Proof.Machine
end

