-- ==== Sys2Proof/Machine/Ops.lean ====
section
/-! DEFINITION. The named operations on the state: reading and writing its elements, Append (40_synchronizer.md R104), the
event strobe (60_exceptions.md R200), Emit (10_state.md R27), the discard and emission entries (R205, R206), which stand in
the place of exception entry, and the conditions under which an operation is enabled. -/
namespace Sys2Proof.Machine

/-- What an operation answers. -/
abbrev Out := Host.Outcome State Fault Refusal

/-! ### Updates, one per group of elements a rule writes -/

/-- `sync <- v`. -/
def State.putSync (v : Sync) (s : State) : State := { s with sync := v }

/-- `buf[cnt] <- x; cnt <- cnt + 1` (R104). -/
def State.pushByte (x : Byte) (s : State) : State := { s with buf := s.buf.set s.cnt x, cnt := s.cnt + 1 }

/-- `ovf <- 1` (R104). -/
def State.markOverflow (s : State) : State := { s with ovf := true }

/-- `cnt <- 0; ovf <- 0`: start the next frame empty (R105). -/
def State.startFrame (s : State) : State := { s with cnt := 0, ovf := false }

/-- `Event(code)` (R200): the event port for this step, and the model's history (R28). -/
def State.raiseEvent (e : Event) (s : State) : State := { s with evt := some e, events := s.events ++ [e] }

/-- `Emit(rec)` (R27). -/
def State.emit (r : List Word) (s : State) : State := { s with pendRec := r, pendValid := true }

/-- The Sink takes the record (R34); the observation records it (R228). -/
def State.takeRecord (s : State) : State := { s with pendValid := false, accepted := s.accepted ++ [s.pendRec] }

/-- The transient values of the frame in progress (R30). -/
def State.putWork (w : Work) (s : State) : State := { s with work := w }

/-- The Byte Source's and the environment's move for one step: the plan for this step is used up, and the event port is quiet
until the step raises an event (R200). -/
def State.beginStep (s : State) : State := { s with drive := s.drive.tail, evt := none }

/-- The Byte Source's remaining bytes. -/
def State.putSource (bs : List Byte) (s : State) : State := { s with source := bs }

/-- RESET (70_reset_and_hazards.md R220, 10_state.md R35). The observation, the configuration and the environment are not
EMSRX's state and stay. `buf` and `pend_rec` are unspecified: free values (log entry 2). -/
def State.wipe (s : State) : State :=
  { s with
    sync := .normal
    buf := (List.range s.cfg.maxRawLen).map (Config.freeByte s.freeCtr)
    cnt := 0
    ovf := false
    pendValid := false
    pendRec := Config.freeRecord s.freeCtr
    work := .idle
    freeCtr := s.freeCtr + 1 }

/-! ### Derived operations -/

/-- The raw candidate `buf[0..cnt)` (R105). -/
def candidate (s : State) : List Byte := s.buf.take s.cnt

/-- `Append(x)` (R104). -/
def append (x : Byte) (s : State) : State :=
  if s.cnt < s.cfg.maxRawLen then s.pushByte x else s.markOverflow

/-- `Normal(b)` (R108): the byte is classified in state NORMAL. -/
def normalByte (b : Byte) (s : State) : State :=
  if b = 0xFF then s.putSync .sawFf else append b s

/-- `raise Discard(code)` (R9): one event, no record, the frame in progress is over. -/
def discard (e : Event) (s : State) : State := (s.raiseEvent e).putWork .idle

/-- `Emit(rec); Event(code)` (43_dispatch_conversion.md R140, 60_exceptions.md R206): the frame in progress is over. -/
def deliver (ws : List Word) (e : Event) (s : State) : State := ((s.emit ws).raiseEvent e).putWork .idle

/-! ### Enabling -/

/-- An ill-formed configuration is refused (00_scope.md R6, 60_exceptions.md R211). -/
def guardCfg (s : State) (k : State → Out) : Out :=
  if cfgWf s.cfg then k s else .refused .illFormedConfig

/-- No byte is accepted and no record emitted while a record waits (10_state.md R27, R33). DEDUCED, log entry 10. -/
def guardFree (s : State) (k : State → Out) : Out :=
  guardCfg s fun s => if s.pendValid then .refused .notEnabled else k s

/-- A byte step runs the row that the decode map selects (R61, R108); `sync = 3` faults (R21). -/
def acceptByte (i : Instr) (b : Byte) (s : State) (k : State → Out) : Out :=
  guardFree s fun s =>
    match decodeByte s.sync b with
    | .err _ => .fault .unreachableSyncState
    | .ok j => if j = i then k s else .refused .notSelected

end Sys2Proof.Machine
end

