-- ==== Sys2Proof/Machine/Efficiency.lean ====
section
/-! DEFINITION. The efficiency interpolation and its domain error (44_decoders.md R180, R181). -/
namespace Sys2Proof.Machine

/-- An entry of EFF_TABLE; a key outside 10..100 has none (20_memory.md R48). -/
def effEntry (c : Cfg) (k : Nat) : Option Nat := if k < 10 then none else c.effTable[k - 10]?

/-- `Efficiency(T)` (R180): the value in units of 0.0001 percent and the error bit. A key with no entry is a lookup failure and
is reported like a domain violation (R48, R181; DEDUCED, log entry 12); under a well-formed configuration none occurs inside the domain. -/
def efficiency (c : Cfg) (t : Nat) : Int × Bool :=
  if effOutOfDomain t then (0, true)
  else
    match effEntry c (t / 100), effEntry c (t / 100 + 1) with
    | some lo, some hi => ((lo : Int) * 100 + ((t % 100 : Nat) : Int) * ((hi : Int) - (lo : Int)), false)
    | _, _ => (0, true)

/-- EFFICIENCY (R180): the efficiency of the temperature in progress. -/
def execEfficiency (s : State) : Out :=
  guardCfg s fun s =>
    let r := efficiency s.cfg s.work.temp
    .next (s.putWork { s.work with eff := signedWord r.1, effError := r.2 })

/-- EFFICIENCY_DOMAIN_ERROR (R181): efficiency word 0 and `eff_error = 1`. The row is selected only outside the domain. -/
def execEfficiencyDomainError (s : State) : Out :=
  guardCfg s fun s =>
    if effOutOfDomain s.work.temp then .next (s.putWork { s.work with eff := 0, effError := true })
    else .refused .notSelected

end Sys2Proof.Machine
end

