-- ==== Sys2Proof/Machine/Flags.lean ====
section
/-! DEFINITION. EMSRX has no flags (10_state.md R26). This file holds what stands in their place: the event codes
(60_exceptions.md R201), the record header's bits (30_encoding.md R70) and the status lookups that set them (44_decoders.md
R165, R166). -/
namespace Sys2Proof.Machine

/-- `evt_code` (R201). -/
def eventCode : Event → BitVec 4
  | .frameShort => 1
  | .frameOverflow => 2
  | .crcMismatch => 3
  | .typeUnregistered => 4
  | .decodePrecond => 5
  | .decoded => 6
  | .decodedEffError => 7

/-- The text of a status code, when it is a key of STATUS_TABLE (R165). EMSRX outputs no text; the Sink reads it. -/
def statusText (c : Cfg) (code : Half) : Option String :=
  match c.statusTable.find? (fun e => e.1 == code) with
  | none => none
  | some e => some e.2

/-- `status_known` (R165). -/
def statusKnown (c : Cfg) (code : Half) : Bool := c.statusTable.any (fun e => e.1 == code)

/-- `SysStatus` (R166): whether a system status is present, and which. -/
def sysStatus (c : Cfg) (code : Half) : Bool × BitVec 2 :=
  if code = 0x2D48 then (true, sysHeating)
  else if code = 0x3D48 then (true, sysHotWater)
  else if statusKnown c code then (true, sysIdle)
  else (false, 0)

/-- A one-bit header field at its place. -/
def headerBit (b : Bool) (at_ : Nat) : Word := if b then 1 <<< at_ else 0

/-- The header word (R70): tag in 3:0, `status_known` 8, `sys_present` 9, `sys_value` 11:10, `eff_error` 12, `nwords` 23:16. -/
def header (tag : BitVec 4) (known present : Bool) (value : BitVec 2) (effError : Bool) (nwords : Byte) : Word :=
  tag.setWidth 32 ||| headerBit known 8 ||| headerBit present 9 ||| (value.setWidth 32 <<< 10) ||| headerBit effError 12 |||
    (nwords.setWidth 32 <<< 16)

end Sys2Proof.Machine
end

