-- ==== Sys2Proof/Machine/Decoders.lean ====
section
/-! DEFINITION. The four typed decoders (44_decoders.md R160 to R178) as pure functions of the frame and the configuration,
and their rows. `none` is a frame read out of range (20_memory.md R41). -/
namespace Sys2Proof.Machine

/-- The converted field values of a FAST frame, in record order (R160). -/
structure FastValues where
  w1 : Nat
  w2 : Nat
  w3 : Nat
  w4 : Nat
  w5 : Nat
  w6 : Nat
  w7 : Nat
  w8 : Nat
  code : Half
  w10 : Nat
  deriving DecidableEq, Repr

/-- `Pre_k(f)` (43_dispatch_conversion.md R150): the type byte and the exact length. -/
def precond (c : Cfg) (k : Kind) (f : List Byte) : Option Bool :=
  match frameRead f 2 with
  | none => none
  | some t => some (t == c.typeOf k && f.length == c.lenOf k)

/-- The reads and conversions of `Decode_FAST` (R160). -/
def fastValues (c : Cfg) (f : List Byte) : Option FastValues := do
  let l := c.layout.fast
  let w1 ← conv f l.requestedFlowTemperature
  let w2 ← conv f l.flowTemperature
  let w3 ← conv f l.requestedBurnerPower
  let w4 ← conv f l.actualBurnerPower
  let w5 ← conv f l.boilerTemperature
  let w6 ← conv f l.flowReturnTemperature
  let w7 ← conv f l.ionisationCurrent
  let w8 ← conv f l.pressure
  let code ← conv f l.statusCode
  let w10 ← conv f l.errorCode
  some ⟨w1, w2, w3, w4, w5, w6, w7, w8, BitVec.ofNat 16 code, w10⟩

/-- `DeltaT` (R161), exact in hundredths. -/
def deltaT (v : FastValues) : Int := (v.w2 : Int) - (v.w6 : Int)

/-- The header and words of a FAST record, with its event (R160, 30_encoding.md R71). -/
def fastRecord (c : Cfg) (v : FastValues) : Decoded :=
  let sys := sysStatus c v.code
  let eff := efficiency c v.w6
  .record
    [header 1 (statusKnown c v.code) sys.1 sys.2 eff.2 12,
      fieldWord v.w1, fieldWord v.w2, fieldWord v.w3, fieldWord v.w4, fieldWord v.w5, fieldWord v.w6, fieldWord v.w7,
      fieldWord v.w8, v.code.setWidth 32, fieldWord v.w10, signedWord (deltaT v), signedWord eff.1]
    (if eff.2 then .decodedEffError else .decoded)

/-- `Decode_FAST` (R160). -/
def decodeFast (c : Cfg) (f : List Byte) : Option Decoded :=
  match precond c .fast f with
  | none => none
  | some false => some .empty
  | some true =>
    match fastValues c f with
    | none => none
    | some v => some (fastRecord c v)

/-- `HotWaterRuntime` (R171), exact in minutes. -/
def hotWaterRuntime (burner heating : Nat) : Int := (burner : Int) - (heating : Int)

/-- The reads, conversions and record of `Decode_SLOW` (R170, R72). -/
def slowRecord (c : Cfg) (f : List Byte) : Option Decoded := do
  let l := c.layout.slow
  let w1 ← conv f l.burnerOutletTemperature
  let w2 ← conv f l.pumpDutyCycle
  let w3 ← conv f l.burnerStarts
  let w4 ← conv f l.burnerRuntime
  let w5 ← conv f l.heatingRuntime
  some (.record
    [header 2 false false 0 false 6, fieldWord w1, fieldWord w2, fieldWord w3, fieldWord w4, fieldWord w5,
      signedWord (hotWaterRuntime w4 w5)] .decoded)

/-- `Decode_SLOW` (R170). -/
def decodeSlow (c : Cfg) (f : List Byte) : Option Decoded :=
  match precond c .slow f with
  | none => none
  | some false => some .empty
  | some true => slowRecord c f

/-- The reads, conversions and record of `Decode_DHW` (R175, R73). -/
def dhwRecord (c : Cfg) (f : List Byte) : Option Decoded := do
  let l := c.layout.dhw
  let w1 ← conv f l.boilerTemperature
  let w2 ← conv f l.hotWaterOutletTemperature
  let w3 ← conv f l.hotWaterFlowRate
  some (.record [header 3 false false 0 false 3, fieldWord w1, fieldWord w2, fieldWord w3] .decoded)

/-- `Decode_DHW` (R175). -/
def decodeDhw (c : Cfg) (f : List Byte) : Option Decoded :=
  match precond c .dhw f with
  | none => none
  | some false => some .empty
  | some true => dhwRecord c f

/-- The reads, conversions and record of `Decode_ROOM` (R178, R74): the widths and scales are the rule's own. -/
def roomRecord (c : Cfg) (f : List Byte) : Option Decoded := do
  let w1 ← frameReadN f c.layout.room.setpoint.offset 1
  let w2 ← frameReadN f c.layout.room.actual.offset 2
  some (.record [header 4 false false 0 false 2, fieldWord (toScaled w1 50), fieldWord (toScaled w2 10)] .decoded)

/-- `Decode_ROOM` (R178). -/
def decodeRoom (c : Cfg) (f : List Byte) : Option Decoded :=
  match precond c .room f with
  | none => none
  | some false => some .empty
  | some true => roomRecord c f

/-- `Decode_k` (R140). -/
def decodeKind (c : Cfg) (k : Kind) (f : List Byte) : Option Decoded :=
  match k with
  | .fast => decodeFast c f
  | .slow => decodeSlow c f
  | .dhw => decodeDhw c f
  | .room => decodeRoom c f

/-- A decoder row writes no architectural state (R160): its result is the record in progress. -/
def runDecoder (k : Kind) (s : State) : Out :=
  guardCfg s fun s =>
    match decodeKind s.cfg k s.work.frame with
    | none => .fault .frameReadOutOfRange
    | some r => .next (s.putWork { s.work with result := r })

/-- The temperature and efficiency that `Decode_FAST` computes on the way (R160, R180): they stand in the transient values
beside its record, when the precondition holds. -/
def fastWork (c : Cfg) (w : Work) : Work :=
  match precond c .fast w.frame with
  | some true =>
    match fastValues c w.frame with
    | none => w
    | some v =>
      let eff := efficiency c v.w6
      { w with temp := v.w6, eff := signedWord eff.1, effError := eff.2 }
  | _ => w

/-- FRAME_FAST (R160). -/
def execFrameFast (s : State) : Out := runDecoder .fast (s.putWork (fastWork s.cfg s.work))

/-- FRAME_SLOW (R170). -/
def execFrameSlow (s : State) : Out := runDecoder .slow s

/-- FRAME_DHW (R175). -/
def execFrameDhw (s : State) : Out := runDecoder .dhw s

/-- FRAME_ROOM (R178). -/
def execFrameRoom (s : State) : Out := runDecoder .room s

/-- The `frame_type` row the frame in progress selects (30_encoding.md R65), `none` when it has no type byte (R41). -/
def selectedFrameRow (s : State) : Option Instr :=
  match frameRead s.work.frame 2 with
  | none => none
  | some t => some (decodeFrame s.cfg t s.work.frame.length)

/-- A discarding `frame_type` row: run where the frame selects it, it ends the frame with its event. -/
def runDiscardRow (i : Instr) (e : Event) (s : State) : Out :=
  guardCfg s fun s =>
    match selectedFrameRow s with
    | none => .fault .frameReadOutOfRange
    | some j => if j = i then .next (discard e s) else .refused .notSelected

/-- FRAME_UNREGISTERED (R153): no decoder matches, the frame is discarded. -/
def execFrameUnregistered (s : State) : Out := runDiscardRow .frameUnregistered .typeUnregistered s

/-- DECODE_PRECOND (R150): a registered type whose exact length fails, the frame is discarded. -/
def execDecodePrecond (s : State) : Out := runDiscardRow .decodePrecond .decodePrecond s

end Sys2Proof.Machine
end

