-- ==== Sys2Proof/Machine/Pipeline.lean ====
section
/-! DEFINITION. The frame stages that run at a confirmed break: BREAK (40_synchronizer.md R105), PROCESS_FRAME
(43_dispatch_conversion.md R140), DESTUFF (41_destuffer.md R120) and CRC_CHECK (42_crc.md R131). -/
namespace Sys2Proof.Machine

/-- `Crc(f[0..n-1)) = f[n-1]` (R131); `none` when there is no `f[n-1]` (20_memory.md R41). -/
def crcAccepts (f : List Byte) : Option Bool :=
  match frameRead f (f.length - 1) with
  | none => none
  | some last => some (crc f.dropLast == last)

/-- `ProcessFrame(raw)` (R140): synchronize, destuff, check the CRC, look up the registry, decode, emit. -/
def processFrame (s : State) : Out :=
  let f := destuff s.work.raw
  match crcAccepts f with
  | none => .fault .frameReadOutOfRange
  | some false => .next (discard .crcMismatch s)
  | some true =>
    match frameRead f 2 with
    | none => .fault .frameReadOutOfRange
    | some t =>
      match registry s.cfg t with
      | none => .next (discard .typeUnregistered s)
      | some k =>
        match decodeKind s.cfg k f with
        | none => .fault .frameReadOutOfRange
        | some .empty => .next (discard .decodePrecond s)
        | some (.record ws e) => .next (deliver ws e s)

/-- `Break()` (R105): the length filter on the raw bytes, after the overflow mark. -/
def breakFrame (s : State) : Out :=
  let raw := candidate s
  let t := s.startFrame
  if s.ovf then .next (discard .frameOverflow t)
  else if raw.length < minFrameLen then .next (discard .frameShort t)
  else processFrame (t.putWork { Work.idle with raw := raw })

/-- BREAK (R105). -/
def execBrk (s : State) : Out := guardFree s breakFrame

/-- PROCESS_FRAME (R140), on the raw candidate in progress. -/
def execProcessFrame (s : State) : Out := guardFree s processFrame

/-- DESTUFF (R120): the destuffed frame of the raw candidate in progress. -/
def execDestuff (s : State) : Out :=
  guardCfg s fun s => .next (s.putWork { s.work with frame := destuff s.work.raw })

/-- CRC_CHECK (R131): on acceptance the frame goes on, on a mismatch it is discarded. -/
def execCrcCheck (s : State) : Out :=
  guardCfg s fun s =>
    match crcAccepts s.work.frame with
    | none => .fault .frameReadOutOfRange
    | some false => .next (discard .crcMismatch s)
    | some true => .next (s.putWork { s.work with crc := crc s.work.frame.dropLast })

end Sys2Proof.Machine
end

