-- ==== Sys2Proof/Machine/Synchronizer.lean ====
section
/-! DEFINITION. The six byte rows of the Frame Synchronizer (40_synchronizer.md R100 to R103, R106, R107). -/
namespace Sys2Proof.Machine

/-- SYNC_N_FF (R100): the FF is held. -/
def execSyncNFf (s : State) : Out := acceptByte .syncNFf 0xFF s fun s => .next (s.putSync .sawFf)

/-- SYNC_N_LIT (R106): literal data. -/
def execSyncNLit (b : Byte) (s : State) : Out := acceptByte (.syncNLit b) b s fun s => .next (append b s)

/-- SYNC_F_00 (R101): second byte of a possible break. -/
def execSyncF00 (s : State) : Out := acceptByte .syncF00 0x00 s fun s => .next (s.putSync .sawFf00)

/-- SYNC_F_LIT (R107): the held FF was data, and the byte is classified again. -/
def execSyncFLit (b : Byte) (s : State) : Out :=
  acceptByte (.syncFLit b) b s fun s => .next (normalByte b ((append 0xFF s).putSync .normal))

/-- SYNC_FZ_BRK (R103): a true break; the whole frame pipeline runs in this step (00_scope.md R7). -/
def execSyncFzBrk (s : State) : Out :=
  acceptByte .syncFzBrk 0x00 s fun s => breakFrame (s.putSync .normal)

/-- SYNC_FZ_LIT (R102): the held FF 00 was data, and the byte is classified again. -/
def execSyncFzLit (b : Byte) (s : State) : Out :=
  acceptByte (.syncFzLit b) b s fun s => .next (normalByte b ((append 0x00 (append 0xFF s)).putSync .normal))

end Sys2Proof.Machine
end

