-- ==== Sys2Proof/Machine/Ports.lean ====
section
/-! DEFINITION. The ports of 10_state.md R32, the handshake row SINK_TAKE (R34), the control row RESET
(70_reset_and_hazards.md R220), and what one step selects from the ports (00_scope.md R7). -/
namespace Sys2Proof.Machine

/-- The input levels of the coming step. -/
def driveNow (s : State) : Drive := s.drive.headD Drive.quiet

/-- `rec_valid` (R32); while `rst = 1` no record is offered (R220). -/
def recValid (s : State) : Bool := s.pendValid && !(driveNow s).rst

/-- `rec_data` (R32). -/
def recData (s : State) : List Word := s.pendRec

/-- `in_ready` (R33); while `rst = 1` no byte is taken (R220). -/
def inReady (s : State) : Bool := !s.pendValid && !(driveNow s).rst

/-- `in_data` with `in_valid = 1`, or `none` for `in_valid = 0` (R32). -/
def inOffer (s : State) : Option Byte := if (driveNow s).inValid then s.source.head? else none

/-- `evt_valid` of the step just made (R200). -/
def evtValid (s : State) : Bool := s.evt.isSome

/-- `evt_code` of the step just made; meaningful when `evt_valid = 1` (R201). -/
def evtCode (s : State) : Option (BitVec 4) := s.evt.map eventCode

/-- SINK_TAKE (R34). -/
def execSinkTake (s : State) : Out :=
  guardCfg s fun s => if s.pendValid then .next s.takeRecord else .refused .notEnabled

/-- RESET (R220). -/
def execReset (s : State) : Out := guardCfg s fun s => .next s.wipe

/-- What a step selects. -/
inductive Fetched where
  /-- the operation and the state it starts in -/
  | run (i : Instr) (s : State)
  /-- no transaction is enabled: the machine waits -/
  | idle (s : State)
  | fault (r : Fault)
  | refused (r : Refusal)
  deriving DecidableEq, Repr

/-- A byte step, when the Byte Source offers a byte and `in_ready = 1` (40_synchronizer.md R108): the byte leaves the source and
the decode map selects a row. Otherwise the machine waits, and an unaccepted byte stays with the Byte Source (R33, R225). -/
def fetchByte (s : State) : Fetched :=
  match inReady s, inOffer s with
  | true, some b =>
    match decodeByte s.sync b with
    | .ok i => .run i (s.beginStep.putSource s.source.tail)
    | .err _ => .fault .unreachableSyncState
  | _, _ => .idle s.beginStep

/-- One step's choice: reset, else the Sink's acceptance, else an offered byte (R7, R33, R34, R220). DEDUCED, log entries 6 and 9. -/
def fetch (s : State) : Fetched :=
  if cfgWf s.cfg then
    match decodePorts (driveNow s).rst (recValid s) (driveNow s).recReady with
    | .ok i => .run i s.beginStep
    | .err _ => fetchByte s
  else .refused .illFormedConfig

/-- The state with the byte next in line at the input: no reset, no record waiting, the synchronizer in the state whose reading
`decodeTableWord` gives. Log entry 7. -/
def offerNext (s : State) (b : Byte) : State :=
  { s with sync := .normal, pendValid := false, source := b :: s.source, drive := Drive.quiet :: s.drive }

end Sys2Proof.Machine
end

