-- ==== Sys2Proof/Machine/Dispatch.lean ====
section
/-! DEFINITION. The one match from an operation to its meaning. -/
namespace Sys2Proof.Machine

def exec (i : Instr) (s : State) : Host.Outcome State Fault Refusal :=
  match i with
  | .syncNFf => Sys2Proof.Machine.execSyncNFf s
  | .syncNLit b => Sys2Proof.Machine.execSyncNLit b s
  | .syncF00 => Sys2Proof.Machine.execSyncF00 s
  | .syncFLit b => Sys2Proof.Machine.execSyncFLit b s
  | .syncFzBrk => Sys2Proof.Machine.execSyncFzBrk s
  | .syncFzLit b => Sys2Proof.Machine.execSyncFzLit b s
  | .brk => Sys2Proof.Machine.execBrk s
  | .processFrame => Sys2Proof.Machine.execProcessFrame s
  | .destuff => Sys2Proof.Machine.execDestuff s
  | .crcCheck => Sys2Proof.Machine.execCrcCheck s
  | .frameFast => Sys2Proof.Machine.execFrameFast s
  | .frameSlow => Sys2Proof.Machine.execFrameSlow s
  | .frameDhw => Sys2Proof.Machine.execFrameDhw s
  | .frameRoom => Sys2Proof.Machine.execFrameRoom s
  | .frameUnregistered => Sys2Proof.Machine.execFrameUnregistered s
  | .decodePrecond => Sys2Proof.Machine.execDecodePrecond s
  | .efficiency => Sys2Proof.Machine.execEfficiency s
  | .efficiencyDomainError => Sys2Proof.Machine.execEfficiencyDomainError s
  | .sinkTake => Sys2Proof.Machine.execSinkTake s
  | .reset => Sys2Proof.Machine.execReset s

end Sys2Proof.Machine
end

