-- ==== Sys2Proof/Machine/Step.lean ====
section
/-! DEFINITION. One step of the machine (00_scope.md R7): one transaction at the ports, or a wait. -/
namespace Sys2Proof.Machine

/-- One step. -/
def step (s : State) : Host.Outcome State Fault Refusal :=
  match fetch s with
  | .run i t => exec i t
  | .idle t => .next t
  | .fault r => .fault r
  | .refused r => .refused r

/-- The state with the instruction byte offered at the input in the next step. -/
def State.withFetchWord (s : State) (nbits w : Nat) : State :=
  offerNext s (BitVec.ofNat 8 (if nbits < 8 then w % 2 ^ nbits else w))

end Sys2Proof.Machine
end

