-- ==== Sys2Proof/Machine/Stream.lean ====
section
/-! DEFINITION. The stream notation for programs (30_encoding.md R80, R81): what a program text offers at the ports. -/
namespace Sys2Proof.Machine

/-- One item of the notation. `BRK` is the three bytes FF 00 00 and `DFF` the two bytes FF FF. -/
inductive Stim where
  /-- `B xx` -/
  | byte (b : Byte)
  /-- `TAKE` -/
  | take
  /-- `RST` -/
  | rst
  deriving DecidableEq, Repr

/-- `stuff(s)` (R81): each FF doubled. -/
def stuff : List Byte → List Byte
  | [] => []
  | b :: r => if b = 0xFF then 0xFF :: 0xFF :: stuff r else b :: stuff r

/-- `BRK` (R80). -/
def breakMarker : List Byte := [0xFF, 0x00, 0x00]

/-- The bytes of `FRAME [..]` (R81): the stuffed frame with its CRC, then a break. -/
def frameBytes (bs : List Byte) : List Byte := stuff (bs ++ [crc bs]) ++ breakMarker

/-- The bytes an item puts into the Byte Source. -/
def stimBytes : Stim → List Byte
  | .byte b => [b]
  | .take => []
  | .rst => []

/-- The input levels of the step an item stands for. -/
def stimDrive : Stim → Drive
  | .byte _ => ⟨false, true, false⟩
  | .take => ⟨false, false, true⟩
  | .rst => ⟨true, false, false⟩

/-- A program at the ports: one step for each item. -/
def loadProgram (p : List Stim) (s : State) : State :=
  { s with source := p.flatMap stimBytes, drive := p.map stimDrive }

/-- The observation of a run (70_reset_and_hazards.md R228): the accepted records and the events, in order. -/
def observation (s : State) : List (List Word) × List Event := (s.accepted, s.events)

/-- A run has ended (R228): every offered byte is accepted and no record waits. R228 speaks of the bytes the Byte Source 'has
offered'; that a byte it still holds and has not offered (`in_valid = 0`) keeps the run from having ended is the model's choice
(log entry 15, DESIGN CHOICE). -/
def runEnded (s : State) : Bool := s.source.isEmpty && !s.pendValid

end Sys2Proof.Machine
end

