-- ==== Sys2Proof/Safety.lean ====
section
/-! DEFINITION. The terms in which claims about EMSRX are made: the invariant of 10_state.md R36, the record format of
30_encoding.md R70, a field's value as the sum of R151, and what a break step is. -/
namespace Sys2Proof.Safety
open Sys2Proof.Machine

/-- The header's reserved bits: 7:4, 15:13 and 31:24 (R70). -/
def headerZeroMask : Word := 0xFF00E0F0

/-- Header field `tag` (R70). -/
def tagOf (h : Word) : BitVec 4 := h.extractLsb' 0 4
/-- Header field `status_known`. -/
def knownOf (h : Word) : BitVec 1 := h.extractLsb' 8 1
/-- Header field `sys_present`. -/
def presentOf (h : Word) : BitVec 1 := h.extractLsb' 9 1
/-- Header field `sys_value`. -/
def valueOf (h : Word) : BitVec 2 := h.extractLsb' 10 2
/-- Header field `eff_error`. -/
def effErrorOf (h : Word) : BitVec 1 := h.extractLsb' 12 1
/-- Header field `nwords`. -/
def nwordsOf (h : Word) : Byte := h.extractLsb' 16 8

/-- A record in the format of R70: no reserved tag, reserved bits zero, the word count of the tag, FAST-only bits zero in the
other records, no value without a present system status, and word 12 zero where the efficiency failed. -/
def recordOk (ws : List Word) : Prop :=
  match ws with
  | [] => False
  | h :: body =>
    h &&& headerZeroMask = 0 ∧
    ((tagOf h = 1 ∧ nwordsOf h = 12) ∨
      ((tagOf h = 2 ∧ nwordsOf h = 6 ∨ tagOf h = 3 ∧ nwordsOf h = 3 ∨ tagOf h = 4 ∧ nwordsOf h = 2) ∧
        knownOf h = 0 ∧ presentOf h = 0 ∧ valueOf h = 0 ∧ effErrorOf h = 0)) ∧
    body.length = (nwordsOf h).toNat ∧
    (presentOf h = 0 → valueOf h = 0) ∧
    valueOf h ≠ 3 ∧
    (effErrorOf h = 1 → body[11]? = some 0)

/-- The invariant of R36, with what the model adds: the buffer has MAX_RAW_LEN bytes (R22), no frame is in progress between steps
(R20, R30), and a waiting record has the format of R70. -/
def Inv (s : State) : Prop :=
  s.cnt ≤ s.cfg.maxRawLen ∧ (s.ovf = true → s.cnt = s.cfg.maxRawLen) ∧ s.sync ≠ .reserved ∧
    s.buf.length = s.cfg.maxRawLen ∧ s.work = Work.idle ∧ (s.pendValid = true → recordOk s.pendRec)

/-- The value of the `width` bytes at `offset` by the formula of R151: byte `i` weighs 256^(width-1-i). -/
def bytesValue (f : List Byte) (offset width : Nat) : Nat :=
  ((List.range width).map fun i => (f.getD (offset + i) 0).toNat * 256 ^ (width - 1 - i)).sum

/-- A field's value by its LAYOUT kind (R67): scaled values in hundredths. -/
def fieldValue (f : List Byte) (fld : Field) : Nat :=
  match fld.kind with
  | .int => bytesValue f fld.offset fld.width
  | .scaled k => bytesValue f fld.offset fld.width * k
  | .chars2 => bytesValue f fld.offset 2

/-- The step about to be made confirms a break (40_synchronizer.md R103): the decode map selects SYNC_FZ_BRK. -/
def breakStep (s : State) : Prop := ∃ t, fetch s = .run .syncFzBrk t

/-- The input levels of a step that only waits: no reset, no offered byte, no acceptance (70_reset_and_hazards.md R227). -/
def isWait (d : Drive) : Bool := !d.rst && !d.inValid && !d.recReady

/-- The number of steps of a plan in which the Byte Source offers its byte. -/
def offerSteps (plan : List Drive) : Nat := plan.countP (fun d => d.inValid)

/-- The bytes hold a break triplet FF 00 00 somewhere. -/
def hasTriplet (l : List Byte) : Prop := [0xFF, 0x00, 0x00] <:+: l

/-- The events that discard a frame (60_exceptions.md R205); the other two deliver a record (R206). -/
def isDiscard : Event → Bool
  | .decoded => false
  | .decodedEffError => false
  | _ => true

/-- The event a break reports, in the priority order of 60_exceptions.md R203, for the overflow mark, the raw candidate and the
configuration. The frame stages are named by what they test. -/
def breakEvent (c : Cfg) (ovf : Bool) (raw : List Byte) : Event :=
  let f := destuff raw
  let t := f.getD 2 0
  if ovf then .frameOverflow
  else if raw.length < 5 then .frameShort
  else if crc f.dropLast ≠ f.getLastD 0 then .crcMismatch
  else if t ≠ c.typeFast ∧ t ≠ c.typeSlow ∧ t ≠ c.typeDhw ∧ t ≠ 0x91 then .typeUnregistered
  else if (t = c.typeFast → f.length ≠ 30) ∧ (t = c.typeSlow → f.length ≠ c.lenSlow) ∧
      (t = c.typeDhw → f.length ≠ c.lenDhw) ∧ (t = 0x91 → f.length ≠ 19) then .decodePrecond
  else if t = c.typeFast ∧ (fieldValue f c.layout.fast.flowReturnTemperature < 1000 ∨
      10000 ≤ fieldValue f c.layout.fast.flowReturnTemperature) then .decodedEffError
  else .decoded

end Sys2Proof.Safety
end

