-- ==== Sys2Proof/Certificates/Slice0/Obligations.lean ====
section
/-! DEFINITION. The statements for the provers, by the files of spec/. Each docstring names the rule it formalises. `exec i s =
.next t` says that the operation completes in `t`; a state is written as the old one with the elements the rule writes, so the
equation is the frame as well. -/
open Sys2Proof Sys2Proof.Machine Sys2Proof.Safety

/-! ### Encodings -/

/-- Under every well-formed configuration, the code the encoder gives for a well-formed operation selects that operation. -/
def Obligations.DecodeEncodeRoundTrip : Prop :=
  ∀ (c : Cfg) (i : Instr), cfgWf c = true → i.wf = true → decode c (encode c i) = .ok i

/-- R60, R61: in every named synchronizer state every byte value selects exactly one row, and the row with its literal gives
the state and the byte back. -/
def Obligations.EveryByteSelectsOneRow : Prop :=
  ∀ (c : Cfg) (sy : Sync) (b : Byte), sy ≠ .reserved →
    ∃ i, decode c (.byte sy b) = .ok i ∧ i.wf = true ∧ encode c i = .byte sy b

/-- A few codes written out from R61, R65 and the opcode table. -/
def Obligations.SpecCodesDecode : Prop :=
  decodeByte .normal 0xFF = .ok .syncNFf ∧ decodeByte .normal 0x00 = .ok (.syncNLit 0x00) ∧
  decodeByte .sawFf 0x00 = .ok .syncF00 ∧ decodeByte .sawFf 0xFF = .ok (.syncFLit 0xFF) ∧
  decodeByte .sawFf00 0x00 = .ok .syncFzBrk ∧ decodeByte .sawFf00 0x12 = .ok (.syncFzLit 0x12) ∧
  decodeFrame Cfg.test 0x91 19 = .frameRoom ∧ decodeFrame Cfg.test 0x91 18 = .decodePrecond ∧
  decodeFrame Cfg.test 0x07 6 = .frameUnregistered ∧ decodeTemp 9999 = .efficiency ∧ decodeTemp 10000 = .efficiencyDomainError

/-- R153: the registry answers a kind exactly on its type code and UNREGISTERED exactly on every other byte; a frame with such a
type byte is discarded with TYPE_UNREGISTERED. -/
def Obligations.RegistrySelectsByTypeCode : Prop :=
  (∀ (c : Cfg) (t : Byte), cfgWf c = true →
    (∀ k, registry c t = some k ↔ t = c.typeOf k) ∧ (registry c t = none ↔ ∀ k, t ≠ c.typeOf k)) ∧
  (∀ s : State, cfgWf s.cfg = true → 3 ≤ s.work.frame.length → (∀ k, s.work.frame.getD 2 0 ≠ s.cfg.typeOf k) →
    exec .frameUnregistered s = .next { s with
      evt := some .typeUnregistered, events := s.events ++ [.typeUnregistered], work := Work.idle })

/-- R201, R66 and the encoding of R21: the event codes are the table's, no two alike, none reserved. -/
def Obligations.CodesOfStatesAndEvents : Prop :=
  (eventCode .frameShort = 1 ∧ eventCode .frameOverflow = 2 ∧ eventCode .crcMismatch = 3 ∧ eventCode .typeUnregistered = 4 ∧
    eventCode .decodePrecond = 5 ∧ eventCode .decoded = 6 ∧ eventCode .decodedEffError = 7) ∧
  (∀ e, eventCode e ≠ 0 ∧ (eventCode e).toNat < 8) ∧ (∀ e e', eventCode e = eventCode e' → e = e') ∧
  syncBits .normal = 0 ∧ syncBits .sawFf = 1 ∧ syncBits .sawFf00 = 2 ∧ syncBits .reserved = 3

/-! ### Frame synchronizer -/

/-- R104: Append writes one byte at `cnt` below MAX_RAW_LEN and else only sets the overflow mark; the candidate grows by
exactly that byte. -/
def Obligations.AppendAddsOneByteOrMarksOverflow : Prop :=
  ∀ (s : State) (x : Byte), s.buf.length = s.cfg.maxRawLen →
    (s.cnt < s.cfg.maxRawLen →
      append x s = { s with buf := s.buf.set s.cnt x, cnt := s.cnt + 1 } ∧ candidate (append x s) = candidate s ++ [x]) ∧
    (s.cfg.maxRawLen ≤ s.cnt → append x s = { s with ovf := true } ∧ candidate (append x s) = candidate s)

/-- R100: in NORMAL, FF is held. -/
def Obligations.NormalMarkIsHeld : Prop :=
  ∀ s : State, cfgWf s.cfg = true → s.pendValid = false → s.sync = .normal →
    exec .syncNFf s = .next { s with sync := .sawFf }

/-- R106: in NORMAL, any other byte is appended. -/
def Obligations.NormalLiteralIsAppended : Prop :=
  ∀ (s : State) (b : Byte), cfgWf s.cfg = true → s.pendValid = false → s.sync = .normal → b ≠ 0xFF →
    exec (.syncNLit b) s =
      .next (if s.cnt < s.cfg.maxRawLen then { s with buf := s.buf.set s.cnt b, cnt := s.cnt + 1 } else { s with ovf := true })

/-- R101: in SAW_FF, 00 is held. -/
def Obligations.SecondMarkerByteIsHeld : Prop :=
  ∀ s : State, cfgWf s.cfg = true → s.pendValid = false → s.sync = .sawFf →
    exec .syncF00 s = .next { s with sync := .sawFf00 }

/-- R107: in SAW_FF, any byte but 00 refutes the break: the held FF is appended and the byte is classified in NORMAL. -/
def Obligations.RefutedMarkIsData : Prop :=
  ∀ (s : State) (b : Byte), cfgWf s.cfg = true → s.pendValid = false → s.sync = .sawFf → b ≠ 0x00 →
    exec (.syncFLit b) s =
      .next (if b = 0xFF then { append 0xFF s with sync := .sawFf } else append b { append 0xFF s with sync := .normal })

/-- R102: in SAW_FF00, any byte but 00 refutes the break: FF and 00 are appended and the byte is classified in NORMAL. -/
def Obligations.RefutedPairIsData : Prop :=
  ∀ (s : State) (b : Byte), cfgWf s.cfg = true → s.pendValid = false → s.sync = .sawFf00 → b ≠ 0x00 →
    exec (.syncFzLit b) s =
      .next (if b = 0xFF then { append 0x00 (append 0xFF s) with sync := .sawFf }
        else append b { append 0x00 (append 0xFF s) with sync := .normal })

/-- R103: in SAW_FF00, 00 confirms a break: `sync` is NORMAL, Break() runs in the same step, with exactly one event. -/
def Obligations.TripletConfirmsABreak : Prop :=
  ∀ s : State, cfgWf s.cfg = true → s.pendValid = false → s.sync = .sawFf00 →
    exec .syncFzBrk s = exec .brk { s with sync := .normal } ∧
    ∃ t e, exec .syncFzBrk s = .next t ∧ t.sync = .normal ∧ t.cnt = 0 ∧ t.ovf = false ∧ t.evt = some e ∧
      t.events = s.events ++ [e]

/-- R108 and the head of 40_synchronizer.md: a byte row without a break writes only `sync`, `buf`, `cnt` and `ovf`; at most
three bytes are appended, and every other byte of the buffer stays. -/
def Obligations.ByteRowsTouchOnlyTheSynchronizer : Prop :=
  ∀ (s t : State) (i : Instr) (b : Byte), i ∈ [.syncNFf, .syncNLit b, .syncF00, .syncFLit b, .syncFzLit b] →
    exec i s = .next t →
      t = { s with sync := t.sync, buf := t.buf, cnt := t.cnt, ovf := t.ovf } ∧ s.cnt ≤ t.cnt ∧ t.cnt ≤ s.cnt + 3 ∧
      ∀ k, k < s.cnt ∨ t.cnt ≤ k → t.buf[k]? = s.buf[k]?

/-- R105: the overflow mark goes first, then the length filter on the raw bytes; a longer candidate goes to ProcessFrame with the
next frame already empty. -/
def Obligations.BreakClassifiesTheCandidate : Prop :=
  ∀ s : State, cfgWf s.cfg = true → s.pendValid = false →
    (s.ovf = true →
      exec .brk s = .next { s with
        cnt := 0, ovf := false, evt := some .frameOverflow, events := s.events ++ [.frameOverflow], work := Work.idle }) ∧
    (s.ovf = false → (candidate s).length < 5 →
      exec .brk s = .next { s with
        cnt := 0, ovf := false, evt := some .frameShort, events := s.events ++ [.frameShort], work := Work.idle }) ∧
    (s.ovf = false → 5 ≤ (candidate s).length →
      exec .brk s = exec .processFrame
        { s with cnt := 0, ovf := false, work := { Work.idle with raw := s.buf.take s.cnt } })

/-- R205, R206: in the step that confirms a break, a discard writes `sync`, `cnt`, `ovf` and the event and leaves the output slot;
an emission fills the slot with a record in the format of R70, and no byte is taken until the Sink accepts. Nothing else
changes. -/
def Obligations.BreakEntryIsDiscardOrEmission : Prop :=
  ∀ s : State, cfgWf s.cfg = true → s.pendValid = false → s.sync = .sawFf00 →
    ∃ t e, exec .syncFzBrk s = .next t ∧
      t = { s with
        sync := .normal, cnt := 0, ovf := false, evt := some e, events := s.events ++ [e], work := Work.idle,
        pendValid := t.pendValid, pendRec := t.pendRec } ∧
      (isDiscard e = true → t.pendValid = false ∧ t.pendRec = s.pendRec) ∧
      (isDiscard e = false → t.pendValid = true ∧ recordOk t.pendRec ∧ inReady t = false)

/-- R203, R201: the event of a break is the first that applies in the order of the stages. -/
def Obligations.EventFollowsThePriorityOrder : Prop :=
  ∀ s : State, cfgWf s.cfg = true → s.pendValid = false →
    ∃ t, exec .brk s = .next t ∧ t.evt = some (breakEvent s.cfg s.ovf (candidate s))

/-- R111: in every state the synchronizer may be in, `FF 00 00` confirms a break and leaves it in NORMAL with an empty frame. With
`drive = []` the three bytes come in three steps, on the model's quiet levels (log entry 4, DESIGN CHOICE);
MarkerResynchronizesThroughWaits takes the levels from a plan. -/
def Obligations.MarkerResynchronizesFromEveryState : Prop :=
  ∀ (s : State) (rest : List Byte), cfgWf s.cfg = true → s.sync ≠ .reserved → s.pendValid = false → s.drive = [] →
    s.source = 0xFF :: 0x00 :: 0x00 :: rest →
    (∃ u, Host.Core.run Sys2Proof.core 1 s = .next u ∧ u.sync = .sawFf) ∧
    ∃ t e, Host.Core.run Sys2Proof.core 3 s = .next t ∧ t.sync = .normal ∧ t.cnt = 0 ∧ t.ovf = false ∧ t.source = rest ∧
      t.evt = some e ∧ t.events = s.events ++ [e]

/-- R110: for a logical frame without `FF 00 00` that fits the buffer, what the synchronizer leaves in `buf` on its stuffed form
and the first two bytes of the break destuffs to the frame: every data byte is recovered exactly once. With `drive = []` the bytes
come one a step, on the model's quiet levels (log entry 4, DESIGN CHOICE); StuffedFrameIsRecoveredThroughWaits takes the levels
from a plan. -/
def Obligations.StuffedFrameIsRecovered : Prop :=
  ∀ (l rest : List Byte) (s : State), ¬ hasTriplet l → cfgWf s.cfg = true → s.buf.length = s.cfg.maxRawLen →
    (stuff l).length ≤ s.cfg.maxRawLen → s.sync = .normal → s.cnt = 0 → s.ovf = false → s.pendValid = false →
    s.drive = [] → s.source = stuff l ++ [0xFF, 0x00] ++ rest →
    ∃ t, Host.Core.run Sys2Proof.core ((stuff l).length + 2) s = .next t ∧ t.sync = .sawFf00 ∧ t.ovf = false ∧
      t.source = rest ∧ t.events = s.events ∧ destuff (candidate t) = l

/-- R63: `FF FF 00 00` from NORMAL is one data byte FF and then a break, where the buffer has room for the FF. With `drive = []` the
bytes come one a step, on the model's quiet levels (log entry 4, DESIGN CHOICE); DoubledMarkIsABreakInAnyBuffer takes the levels
from a plan and the full buffer as well. -/
def Obligations.DoubledMarkBeforeZerosIsABreak : Prop :=
  ∀ (s : State) (rest : List Byte), cfgWf s.cfg = true → s.buf.length = s.cfg.maxRawLen → s.cnt < s.cfg.maxRawLen →
    s.sync = .normal → s.pendValid = false → s.drive = [] → s.source = 0xFF :: 0xFF :: 0x00 :: 0x00 :: rest →
    ∃ t, Host.Core.run Sys2Proof.core 4 s = .next t ∧ t.sync = .normal ∧ t.cnt = 0 ∧ t.source = rest ∧
      t.evt = some (breakEvent s.cfg s.ovf (candidate s ++ [0xFF]))

/-! ### De-stuffer and CRC -/

/-- R120: DESTUFF writes the destuffed frame alone; a run of `k` FF becomes `ceil(k/2)`, and any other byte stands unchanged
between what comes before and after it. The last two equations fix the function. -/
def Obligations.DestuffCollapsesRunsOfMarks : Prop :=
  (∀ s : State, cfgWf s.cfg = true →
    exec .destuff s = .next { s with work := { s.work with frame := destuff s.work.raw } }) ∧
  (∀ k : Nat, destuff (List.replicate k 0xFF) = List.replicate ((k + 1) / 2) 0xFF) ∧
  (∀ (a b : List Byte) (x : Byte), x ≠ 0xFF → destuff (a ++ x :: b) = destuff a ++ x :: destuff b)

/-- R121, R122: the length of the destuffed frame. -/
def Obligations.DestuffedLengthBounds : Prop :=
  ∀ raw : List Byte,
    (raw.length + 1) / 2 ≤ (destuff raw).length ∧ (destuff raw).length ≤ raw.length ∧
    (5 ≤ raw.length → 3 ≤ (destuff raw).length) ∧ (∀ n, 2 * n < raw.length → n < (destuff raw).length)

/-- R132: the closed form of CrcStep. -/
def Obligations.CrcStepClosedForm : Prop :=
  ∀ a b : Byte, crcStep a b = a.rotateLeft 1 ^^^ (if a.getLsbD 7 then 0x18 else 0x00) ^^^ b

/-- R131: CRC_CHECK compares the checksum of every byte but the last with the last. -/
def Obligations.CrcCheckComparesTheLastByte : Prop :=
  ∀ (s : State) (a : List Byte) (b : Byte), cfgWf s.cfg = true → s.work.frame = a ++ [b] →
    (crc a = b → exec .crcCheck s = .next { s with work := { s.work with crc := crc a } }) ∧
    (crc a ≠ b →
      exec .crcCheck s = .next { s with
        evt := some .crcMismatch, events := s.events ++ [.crcMismatch], work := Work.idle })

/-- R133: CrcStep(·, 0) is a bijection, Crc is linear over GF(2), and flipping any one bit of an accepted frame, the CRC byte's own
bits included, makes CRC_CHECK reject it. -/
def Obligations.CrcRejectsEverySingleBitError : Prop :=
  (Function.Bijective fun a : Byte => crcStep a 0) ∧
  (∀ a b : Byte, crcStep (a ^^^ b) 0 = crcStep a 0 ^^^ crcStep b 0) ∧
  (∀ a b : List Byte, a.length = b.length → crc (List.zipWith (fun x y => x ^^^ y) a b) = crc a ^^^ crc b) ∧
  (∀ (s : State) (f : List Byte) (i j : Nat), cfgWf s.cfg = true → crcAccepts f = some true → i < f.length → j < 8 →
    s.work.frame = f.modify i (fun b => b ^^^ (1#8 <<< j)) →
    exec .crcCheck s = .next { s with
      evt := some .crcMismatch, events := s.events ++ [.crcMismatch], work := Work.idle })

/-! ### The frame pipeline -/

/-- R140: PROCESS_FRAME is its stages in order: DESTUFF, then CRC_CHECK, then the row the frame selects, then Emit and Event; a
stage that discards ends it. That a stage row run on its own works on the field `work` is the model's form (log entry 5, DESIGN
CHOICE); this statement ties those rows together. -/
def Obligations.ProcessFrameIsItsStages : Prop :=
  ∀ s : State, cfgWf s.cfg = true → s.pendValid = false → 5 ≤ s.work.raw.length →
    let f := destuff s.work.raw
    ∃ s1 s2, exec .destuff s = .next s1 ∧ exec .crcCheck s1 = .next s2 ∧
      (crc f.dropLast ≠ f.getLastD 0 → exec .processFrame s = .next s2) ∧
      (crc f.dropLast = f.getLastD 0 →
        ∃ row s3, selectedFrameRow s2 = some row ∧ exec row s2 = .next s3 ∧
          (row = .frameUnregistered ∨ row = .decodePrecond → exec .processFrame s = .next s3) ∧
          (row ≠ .frameUnregistered → row ≠ .decodePrecond →
            ∃ ws e, s3.work.result = .record ws e ∧
              exec .processFrame s = .next { s3 with
                pendRec := ws, pendValid := true, evt := some e, events := s3.events ++ [e], work := Work.idle }))

/-- R150: a decoder called on a frame of another type or length answers the empty record; a frame of a registered type with
another length than the type's is discarded with DECODE_PRECOND. -/
def Obligations.FailedPreconditionIsDiscarded : Prop :=
  ∀ (s : State) (k : Kind), cfgWf s.cfg = true → 3 ≤ s.work.frame.length →
    (s.work.frame.getD 2 0 ≠ s.cfg.typeOf k ∨ s.work.frame.length ≠ s.cfg.lenOf k →
      exec (kindRow k) s = .next { s with work := { s.work with result := .empty } }) ∧
    (s.work.frame.getD 2 0 = s.cfg.typeOf k → s.work.frame.length ≠ s.cfg.lenOf k →
      exec .decodePrecond s = .next { s with
        evt := some .decodePrecond, events := s.events ++ [.decodePrecond], work := Work.idle })

/-! ### Conversions -/

/-- R151: widths 1 to 3 give the sum of byte `i` times 256^(w-1-i), below 2^24; every other width gives 0. -/
def Obligations.ToIntIsTheBigEndianSum : Prop :=
  ∀ s : List Byte,
    (1 ≤ s.length → s.length ≤ 3 → toInt s = bytesValue s 0 s.length ∧ toInt s < 2 ^ 24) ∧
    (s.length = 0 ∨ 4 ≤ s.length → toInt s = 0)

/-- R67, with R151, R152, R154: a well-formed field of a frame of its length converts to the value of its kind. -/
def Obligations.ConversionIsTheFieldValue : Prop :=
  ∀ (f : List Byte) (fld : Field), fieldOk f.length fld = true → conv f fld = some (fieldValue f fld)

/-- R75: a field's record word is its value zero-extended, below 2^31. -/
def Obligations.FieldWordHoldsTheValue : Prop :=
  ∀ (f : List Byte) (fld : Field) (len : Nat), fieldOk len fld = true →
    fieldValue f fld < 2 ^ 31 ∧ (fieldWord (fieldValue f fld)).toNat = fieldValue f fld

/-- R161, R171: DeltaT and HotWaterRuntime are exact: the 32-bit word read as signed is the difference, never clamped. -/
def Obligations.DerivedDifferencesAreExact : Prop :=
  ∀ (c : Cfg) (f : List Byte), cfgWf c = true →
    let d : Int := (fieldValue f c.layout.fast.flowTemperature : Int) - fieldValue f c.layout.fast.flowReturnTemperature
    let h : Int := (fieldValue f c.layout.slow.burnerRuntime : Int) - fieldValue f c.layout.slow.heatingRuntime
    (signedWord d).toInt = d ∧ (signedWord h).toInt = h ∧ -2 ^ 24 < h ∧ h < 2 ^ 24

/-! ### Typed decoders -/

/-- R160, R71: FRAME_FAST on a FAST frame of 30 bytes gives the header and the twelve words from the field values, and on any other
frame the empty record; it writes no architectural state. -/
def Obligations.FastFrameRecord : Prop :=
  ∀ s : State, cfgWf s.cfg = true → 3 ≤ s.work.frame.length →
    (s.work.frame.getD 2 0 ≠ s.cfg.typeFast ∨ s.work.frame.length ≠ 30 →
      exec .frameFast s = .next { s with work := { s.work with result := .empty } }) ∧
    (s.work.frame.getD 2 0 = s.cfg.typeFast → s.work.frame.length = 30 →
    let v := fieldValue s.work.frame
    let l := s.cfg.layout.fast
    let code := BitVec.ofNat 16 (v l.statusCode)
    let sys := sysStatus s.cfg code
    let eff := efficiency s.cfg (v l.flowReturnTemperature)
    exec .frameFast s = .next { s with work := { s.work with
      temp := v l.flowReturnTemperature
      eff := BitVec.ofInt 32 eff.1
      effError := eff.2
      result := .record
        [header 1 (statusKnown s.cfg code) sys.1 sys.2 eff.2 12,
          BitVec.ofNat 32 (v l.requestedFlowTemperature), BitVec.ofNat 32 (v l.flowTemperature),
          BitVec.ofNat 32 (v l.requestedBurnerPower), BitVec.ofNat 32 (v l.actualBurnerPower),
          BitVec.ofNat 32 (v l.boilerTemperature), BitVec.ofNat 32 (v l.flowReturnTemperature),
          BitVec.ofNat 32 (v l.ionisationCurrent), BitVec.ofNat 32 (v l.pressure),
          BitVec.ofNat 32 (v l.statusCode), BitVec.ofNat 32 (v l.errorCode),
          BitVec.ofInt 32 ((v l.flowTemperature : Int) - v l.flowReturnTemperature), BitVec.ofInt 32 eff.1]
        (if eff.2 then .decodedEffError else .decoded) } })

/-- R170, R171, R72: FRAME_SLOW on a SLOW frame, and on any other. -/
def Obligations.SlowFrameRecord : Prop :=
  ∀ s : State, cfgWf s.cfg = true → 3 ≤ s.work.frame.length →
    (s.work.frame.getD 2 0 ≠ s.cfg.typeSlow ∨ s.work.frame.length ≠ s.cfg.lenSlow →
      exec .frameSlow s = .next { s with work := { s.work with result := .empty } }) ∧
    (s.work.frame.getD 2 0 = s.cfg.typeSlow → s.work.frame.length = s.cfg.lenSlow →
    let v := fieldValue s.work.frame
    let l := s.cfg.layout.slow
    exec .frameSlow s = .next { s with work := { s.work with
      result := .record
        [0x00060002#32, BitVec.ofNat 32 (v l.burnerOutletTemperature), BitVec.ofNat 32 (v l.pumpDutyCycle),
          BitVec.ofNat 32 (v l.burnerStarts), BitVec.ofNat 32 (v l.burnerRuntime), BitVec.ofNat 32 (v l.heatingRuntime),
          BitVec.ofInt 32 ((v l.burnerRuntime : Int) - v l.heatingRuntime)] .decoded } })

/-- R175, R73: FRAME_DHW on a DHW frame, and on any other. -/
def Obligations.DhwFrameRecord : Prop :=
  ∀ s : State, cfgWf s.cfg = true → 3 ≤ s.work.frame.length →
    (s.work.frame.getD 2 0 ≠ s.cfg.typeDhw ∨ s.work.frame.length ≠ s.cfg.lenDhw →
      exec .frameDhw s = .next { s with work := { s.work with result := .empty } }) ∧
    (s.work.frame.getD 2 0 = s.cfg.typeDhw → s.work.frame.length = s.cfg.lenDhw →
    let v := fieldValue s.work.frame
    let l := s.cfg.layout.dhw
    exec .frameDhw s = .next { s with work := { s.work with
      result := .record
        [0x00030003#32, BitVec.ofNat 32 (v l.boilerTemperature), BitVec.ofNat 32 (v l.hotWaterOutletTemperature),
          BitVec.ofNat 32 (v l.hotWaterFlowRate)] .decoded } })

/-- R178, R74: FRAME_ROOM on a type 0x91 frame of 19 bytes, the setpoint byte times 50 and the two actual bytes times 10; and on any
other frame. -/
def Obligations.RoomFrameRecord : Prop :=
  ∀ s : State, cfgWf s.cfg = true → 3 ≤ s.work.frame.length →
    (s.work.frame.getD 2 0 ≠ 0x91 ∨ s.work.frame.length ≠ 19 →
      exec .frameRoom s = .next { s with work := { s.work with result := .empty } }) ∧
    (s.work.frame.getD 2 0 = 0x91 → s.work.frame.length = 19 →
    let f := s.work.frame
    let o := s.cfg.layout.room.setpoint.offset
    let p := s.cfg.layout.room.actual.offset
    exec .frameRoom s = .next { s with work := { s.work with
      result := .record
        [0x00020004#32, BitVec.ofNat 32 ((f.getD o 0).toNat * 50),
          BitVec.ofNat 32 (((f.getD p 0).toNat * 256 + (f.getD (p + 1) 0).toNat) * 10)] .decoded } })

/-- R70: each header field stands at its bits, and the reserved bits are zero. -/
def Obligations.HeaderFieldsStandAtTheirBits : Prop :=
  ∀ (tag : BitVec 4) (known present : Bool) (value : BitVec 2) (err : Bool) (n : Byte),
    let h := header tag known present value err n
    tagOf h = tag ∧ knownOf h = BitVec.ofBool known ∧ presentOf h = BitVec.ofBool present ∧ valueOf h = value ∧
      effErrorOf h = BitVec.ofBool err ∧ nwordsOf h = n ∧ h &&& headerZeroMask = 0

/-- R165: `status_known` says whether the code is a key of STATUS_TABLE; the text, when known, is an entry's. -/
def Obligations.StatusKnownIsTableMembership : Prop :=
  ∀ (c : Cfg) (code : Half),
    (statusKnown c code = true ↔ ∃ x, (code, x) ∈ c.statusTable) ∧
    (∀ x, statusText c code = some x → (code, x) ∈ c.statusTable) ∧
    (statusText c code = none ↔ statusKnown c code = false)

/-- R166: the tri-state system status. -/
def Obligations.SystemStatusOfTheCode : Prop :=
  ∀ (c : Cfg) (code : Half),
    sysStatus c 0x2D48 = (true, 1) ∧ sysStatus c 0x3D48 = (true, 2) ∧
    (code ≠ 0x2D48 → code ≠ 0x3D48 → ((∃ x, (code, x) ∈ c.statusTable) → sysStatus c code = (true, 0)) ∧
      ((∀ x, (code, x) ∉ c.statusTable) → sysStatus c code = (false, 0)))

/-- R180: inside the domain, EFFICIENCY interpolates between the two neighbouring entries, exactly, and the result lies between
them; outside, it answers zero and the error. -/
def Obligations.EfficiencyInterpolates : Prop :=
  ∀ s : State, cfgWf s.cfg = true →
    (s.work.temp < 1000 ∨ 10000 ≤ s.work.temp →
      exec .efficiency s = .next { s with work := { s.work with eff := 0, effError := true } }) ∧
    (1000 ≤ s.work.temp → s.work.temp < 10000 →
      ∃ lo hi : Nat, s.cfg.effTable[s.work.temp / 100 - 10]? = some lo ∧ s.cfg.effTable[s.work.temp / 100 + 1 - 10]? = some hi ∧
        let v : Int := (lo : Int) * 100 + (s.work.temp % 100 : Nat) * ((hi : Int) - lo)
        exec .efficiency s = .next { s with work := { s.work with eff := BitVec.ofInt 32 v, effError := false } } ∧
        (min lo hi : Int) * 100 ≤ v ∧ v ≤ (max lo hi : Int) * 100 ∧ (BitVec.ofInt 32 v).toNat = v.toNat)

/-- R181: outside the domain the efficiency is word 0 with the error bit; a FAST frame still gives a record, with `eff_error` 1,
word 12 zero, every other word and every other header field as usual, and the event DECODED_EFF_ERROR. -/
def Obligations.EfficiencyDomainErrorIsReported : Prop :=
  (∀ s : State, cfgWf s.cfg = true → s.work.temp < 1000 ∨ 10000 ≤ s.work.temp →
    exec .efficiencyDomainError s = .next { s with work := { s.work with eff := 0, effError := true } }) ∧
  (∀ s : State, cfgWf s.cfg = true → s.work.frame.length = 30 → s.work.frame.getD 2 0 = s.cfg.typeFast →
    let v := fieldValue s.work.frame
    let l := s.cfg.layout.fast
    v l.flowReturnTemperature < 1000 ∨ 10000 ≤ v l.flowReturnTemperature →
    ∃ t h, exec .frameFast s = .next t ∧
      t.work.result = .record
        [h, BitVec.ofNat 32 (v l.requestedFlowTemperature), BitVec.ofNat 32 (v l.flowTemperature),
          BitVec.ofNat 32 (v l.requestedBurnerPower), BitVec.ofNat 32 (v l.actualBurnerPower),
          BitVec.ofNat 32 (v l.boilerTemperature), BitVec.ofNat 32 (v l.flowReturnTemperature),
          BitVec.ofNat 32 (v l.ionisationCurrent), BitVec.ofNat 32 (v l.pressure),
          BitVec.ofNat 32 (v l.statusCode), BitVec.ofNat 32 (v l.errorCode),
          BitVec.ofInt 32 ((v l.flowTemperature : Int) - v l.flowReturnTemperature), 0] .decodedEffError ∧
      tagOf h = 1 ∧ knownOf h = BitVec.ofBool (statusKnown s.cfg (BitVec.ofNat 16 (v l.statusCode))) ∧
      presentOf h = BitVec.ofBool (sysStatus s.cfg (BitVec.ofNat 16 (v l.statusCode))).1 ∧
      valueOf h = (sysStatus s.cfg (BitVec.ofNat 16 (v l.statusCode))).2 ∧ effErrorOf h = 1 ∧ nwordsOf h = 12 ∧
      h &&& headerZeroMask = 0)

/-- R157: two frames of one length that agree on the type byte and on the data portion decode alike: sender, receiver, offset and
CRC byte reach no record. -/
def Obligations.HeaderBytesReachNoRecord : Prop :=
  ∀ (c : Cfg) (k : Kind) (f g : List Byte), cfgWf c = true → f.length = g.length → f[2]? = g[2]? →
    (∀ i, 4 ≤ i → i + 1 < f.length → f[i]? = g[i]?) → decodeKind c k f = decodeKind c k g

/-- R46, R120, R160, R180, R181: DESTUFF, the decoder rows and the efficiency rows write no architectural state, and a decoder run
twice changes nothing more. Their results stand in the field `work`, the model's form (log entry 5, DESIGN CHOICE). -/
def Obligations.StageRowsWriteOnlyTransients : Prop :=
  (∀ (s t : State) (i : Instr),
    i ∈ [.destuff, .frameFast, .frameSlow, .frameDhw, .frameRoom, .efficiency, .efficiencyDomainError] →
    exec i s = .next t → t = { s with work := t.work }) ∧
  (∀ (s t : State) (k : Kind), exec (kindRow k) s = .next t → t.work.frame = s.work.frame ∧ exec (kindRow k) t = .next t)

/-! ### Ports, reset and whole steps -/

/-- A step runs the operation its ports select, with the environment's plan for the step used up and the event port quiet. -/
def Obligations.StepRunsTheSelectedOperation : Prop :=
  ∀ s : State, cfgWf s.cfg = true →
    let d := driveNow s
    let s0 : State := { s with drive := s.drive.tail, evt := none }
    (d.rst = true → step s = exec .reset s0) ∧
    (d.rst = false → s.pendValid = true → d.recReady = true → step s = exec .sinkTake s0) ∧
    (∀ b bs i, d.rst = false → s.pendValid = false → d.inValid = true → s.source = b :: bs →
      decodeByte s.sync b = .ok i → step s = exec i { s0 with source := bs }) ∧
    (d.rst = false → (s.pendValid = true ∧ d.recReady = false ∨ s.pendValid = false ∧ (d.inValid = false ∨ s.source = [])) →
      step s = .next s0)

/-- R33: while a record waits and the Sink does not accept, no byte leaves the Byte Source, however long the wait. Steps past the end
of `drive` run on the model's quiet levels (log entry 4, DESIGN CHOICE). -/
def Obligations.StalledSinkStallsTheSource : Prop :=
  ∀ (n : Nat) (s : State), cfgWf s.cfg = true → s.pendValid = true →
    (∀ d ∈ s.drive, d.rst = false ∧ d.recReady = false) →
    ∃ t, Host.Core.run Sys2Proof.core n s = .next t ∧ t.source = s.source ∧ t.pendValid = true ∧ t.pendRec = s.pendRec ∧
      t.sync = s.sync ∧ t.cnt = s.cnt ∧ t.buf = s.buf ∧ t.ovf = s.ovf ∧ t.events = s.events ∧ t.accepted = s.accepted

/-- R34: the Sink's acceptance transfers the record, clears `pend_valid` and changes nothing else. -/
def Obligations.SinkTakesTheRecord : Prop :=
  ∀ s : State, cfgWf s.cfg = true → s.pendValid = true →
    exec .sinkTake s = .next { s with pendValid := false, accepted := s.accepted ++ [s.pendRec] }

/-- R35, R220: RESET puts every element at its reset value, with no event; the unspecified contents of `buf` and `pend_rec` are not
constrained, and the configuration stays. That the event history, the accepted records and the environment outlast RESET is the
model's choice (log entries 4 and 11, DESIGN CHOICE). -/
def Obligations.ResetRowRestoresTheResetValues : Prop :=
  ∀ s : State, cfgWf s.cfg = true →
    ∃ t, exec .reset s = .next t ∧ t.buf.length = s.cfg.maxRawLen ∧
      t = { s with
        sync := .normal, cnt := 0, ovf := false, pendValid := false, work := Work.idle,
        buf := t.buf, pendRec := t.pendRec, freeCtr := t.freeCtr }

/-- R35: what reset leaves, under every configuration; State.reset is one such state. The test configuration it names is the
model's choice (log entry 1). -/
def Obligations.ResetLeavesTheResetValues : Prop :=
  (∀ c : Cfg, (State.resetWith c).sync = .normal ∧ (State.resetWith c).cnt = 0 ∧ (State.resetWith c).ovf = false ∧
    (State.resetWith c).pendValid = false ∧ (State.resetWith c).cfg = c ∧ (State.resetWith c).events = []) ∧
  State.reset = State.resetWith Cfg.test ∧ cfgWf Cfg.test = true

/-- R36: the invariant holds after reset under every configuration. -/
def Obligations.ResetStateMeetsTheInvariant : Prop :=
  ∀ c : Cfg, Safety.Inv (State.resetWith c)

/-- R36: every step keeps the invariant, from every state that has it. -/
def Obligations.StepKeepsTheInvariant : Prop :=
  ∀ s t : State, Safety.Inv s → step s = .next t → Safety.Inv t

/-- R202, R211: under a well-formed configuration, from every state with the invariant, a step neither faults nor refuses. -/
def Obligations.NothingStopsTheMachine : Prop :=
  ∀ s : State, cfgWf s.cfg = true → Safety.Inv s → ∃ t, step s = .next t

/-- R200: a step that confirms a break produces exactly one event, every other step none. -/
def Obligations.OneEventPerConfirmedBreak : Prop :=
  ∀ s t : State, step s = .next t →
    (breakStep s → ∃ e, t.evt = some e ∧ t.events = s.events ++ [e]) ∧
    (¬ breakStep s → t.evt = none ∧ t.events = s.events)

/-- R109, R50: a record waits after a step only if it waited before or the step confirmed a break; the Sink gets exactly the
waiting record, and before any later byte is taken. -/
def Obligations.RecordsComeFromBreaksInOrder : Prop :=
  ∀ s t : State, step s = .next t →
    (t.pendValid = true → (s.pendValid = true ∧ t.pendRec = s.pendRec) ∨ breakStep s) ∧
    (t.accepted = s.accepted ∨ (s.pendValid = true ∧ t.pendValid = false ∧ t.accepted = s.accepted ++ [s.pendRec])) ∧
    (s.pendValid = true → t.source = s.source)

/-- R5, R29, R31: no operation and no step writes the configuration. -/
def Obligations.ConfigurationIsNeverWritten : Prop :=
  (∀ (i : Instr) (s t : State), exec i s = .next t → t.cfg = s.cfg) ∧ ∀ s t : State, step s = .next t → t.cfg = s.cfg

/-- R5, R6, R211: an ill-formed configuration has no semantics. That a configuration with other EFF_TABLE entries at 45 and 46 than
R5's counts as ill-formed is the model's reading (log entry 8, DEDUCED). -/
def Obligations.IllFormedConfigurationIsRefused : Prop :=
  ∀ (i : Instr) (s : State), cfgWf s.cfg = false →
    exec i s = .refused .illFormedConfig ∧ step s = .refused .illFormedConfig

/-- R21, R211: a byte step that finds `sync = 3` faults. -/
def Obligations.ReservedSyncValueFaults : Prop :=
  ∀ (s : State) (b : Byte) (bs : List Byte), cfgWf s.cfg = true → s.sync = .reserved → s.pendValid = false →
    (driveNow s).rst = false → (driveNow s).inValid = true → s.source = b :: bs →
    step s = .fault .unreachableSyncState

/-- R41, R211: a frame too short for the byte a row reads makes the row fault. -/
def Obligations.OutOfRangeReadFaults : Prop :=
  ∀ s : State, cfgWf s.cfg = true →
    (s.work.frame = [] → exec .crcCheck s = .fault .frameReadOutOfRange) ∧
    (s.work.frame.length < 3 →
      (∀ k, exec (kindRow k) s = .fault .frameReadOutOfRange) ∧ exec .frameUnregistered s = .fault .frameReadOutOfRange ∧
      exec .decodePrecond s = .fault .frameReadOutOfRange)

/-- R228: after the end of a run, with nothing more driven, the machine waits and its observation stands. The idle step is the model's
(log entry 6, DEDUCED), and with `drive = []` no reset comes, by the quiet levels (log entry 4, DESIGN CHOICE). A run has ended only
when the Byte Source holds no byte, offered or not (log entry 15, DESIGN CHOICE). -/
def Obligations.EndedRunWaits : Prop :=
  ∀ s : State, cfgWf s.cfg = true → s.drive = [] → runEnded s = true →
    step s = .next { s with evt := none } ∧ ∀ t, step s = .next t → observation t = observation s ∧ runEnded t = true

/-! ### Runs under a plan of levels

`plan` names the levels of the coming steps, and each run stays inside it: nothing here rests on the quiet levels. That the plan and
the offered bytes stand in State is the model's form (log entry 4, DESIGN CHOICE). -/

/-- R227, R7: steps in which neither a byte nor an acceptance nor reset comes do not change a run. Leaving them out of the plan
gives the same state, up to the event port, which shows the last step alone. -/
def Obligations.WaitingStepsDoNotChangeARun : Prop :=
  ∀ (plan : List Drive) (s : State), cfgWf s.cfg = true → Safety.Inv s → s.drive = plan →
    ∃ t u, Host.Core.run Sys2Proof.core plan.length s = .next t ∧
      Host.Core.run Sys2Proof.core (plan.filter (fun d => !isWait d)).length
        { s with drive := plan.filter (fun d => !isWait d) } = .next u ∧
      t = { u with evt := t.evt }

/-- R111: in every state the synchronizer may be in, `FF 00 00` confirms a break once the plan has offered three bytes without
reset, whatever waits stand between them. -/
def Obligations.MarkerResynchronizesThroughWaits : Prop :=
  ∀ (s : State) (rest : List Byte), cfgWf s.cfg = true → s.sync ≠ .reserved → s.pendValid = false →
    (∀ d ∈ s.drive, d.rst = false) → 3 ≤ offerSteps s.drive → s.source = 0xFF :: 0x00 :: 0x00 :: rest →
    ∃ k t e, k ≤ s.drive.length ∧ offerSteps (s.drive.take k) = 3 ∧ Host.Core.run Sys2Proof.core k s = .next t ∧
      t.sync = .normal ∧ t.cnt = 0 ∧ t.ovf = false ∧ t.source = rest ∧ t.evt = some e ∧ t.events = s.events ++ [e]

/-- R110: the stuffed form of a logical frame without `FF 00 00` that fits the buffer, with the first two bytes of the break, leaves
a candidate that destuffs to the frame, whatever waits stand between the bytes. -/
def Obligations.StuffedFrameIsRecoveredThroughWaits : Prop :=
  ∀ (l rest : List Byte) (s : State), ¬ hasTriplet l → cfgWf s.cfg = true → s.buf.length = s.cfg.maxRawLen →
    (stuff l).length ≤ s.cfg.maxRawLen → s.sync = .normal → s.cnt = 0 → s.ovf = false → s.pendValid = false →
    (∀ d ∈ s.drive, d.rst = false) → (stuff l).length + 2 ≤ offerSteps s.drive →
    s.source = stuff l ++ [0xFF, 0x00] ++ rest →
    ∃ k t, k ≤ s.drive.length ∧ offerSteps (s.drive.take k) = (stuff l).length + 2 ∧
      Host.Core.run Sys2Proof.core k s = .next t ∧ t.sync = .sawFf00 ∧ t.ovf = false ∧
      t.source = rest ∧ t.events = s.events ∧ destuff (candidate t) = l

/-- R63, R104: `FF FF 00 00` from NORMAL is one data byte FF and then a break, whatever waits stand between the bytes; where the
buffer is full the FF is dropped and the break reports the overflow. -/
def Obligations.DoubledMarkIsABreakInAnyBuffer : Prop :=
  ∀ (s : State) (rest : List Byte), cfgWf s.cfg = true → s.buf.length = s.cfg.maxRawLen → s.sync = .normal →
    s.pendValid = false → (∀ d ∈ s.drive, d.rst = false) → 4 ≤ offerSteps s.drive →
    s.source = 0xFF :: 0xFF :: 0x00 :: 0x00 :: rest →
    ∃ k t, k ≤ s.drive.length ∧ offerSteps (s.drive.take k) = 4 ∧ Host.Core.run Sys2Proof.core k s = .next t ∧
      t.sync = .normal ∧ t.cnt = 0 ∧ t.source = rest ∧
      t.evt = some (if s.cnt < s.cfg.maxRawLen then breakEvent s.cfg s.ovf (candidate s ++ [0xFF]) else .frameOverflow)
end

