-- ==== Sys2Proof/Laws/State.lean ====
section
/-! SUPPORT. One lemma per field per update of `State`, so that no later proof unfolds a record update. -/
namespace Sys2Proof.Machine

variable (s : State)

@[simp] theorem State.putSync_sync (v : Sync) : (s.putSync v).sync = v := rfl
@[simp] theorem State.putSync_buf (v : Sync) : (s.putSync v).buf = s.buf := rfl
@[simp] theorem State.putSync_cnt (v : Sync) : (s.putSync v).cnt = s.cnt := rfl
@[simp] theorem State.putSync_ovf (v : Sync) : (s.putSync v).ovf = s.ovf := rfl
@[simp] theorem State.putSync_pendValid (v : Sync) : (s.putSync v).pendValid = s.pendValid := rfl
@[simp] theorem State.putSync_pendRec (v : Sync) : (s.putSync v).pendRec = s.pendRec := rfl
@[simp] theorem State.putSync_evt (v : Sync) : (s.putSync v).evt = s.evt := rfl
@[simp] theorem State.putSync_events (v : Sync) : (s.putSync v).events = s.events := rfl
@[simp] theorem State.putSync_accepted (v : Sync) : (s.putSync v).accepted = s.accepted := rfl
@[simp] theorem State.putSync_work (v : Sync) : (s.putSync v).work = s.work := rfl
@[simp] theorem State.putSync_cfg (v : Sync) : (s.putSync v).cfg = s.cfg := rfl
@[simp] theorem State.putSync_source (v : Sync) : (s.putSync v).source = s.source := rfl
@[simp] theorem State.putSync_drive (v : Sync) : (s.putSync v).drive = s.drive := rfl
@[simp] theorem State.putSync_freeCtr (v : Sync) : (s.putSync v).freeCtr = s.freeCtr := rfl

@[simp] theorem State.pushByte_sync (x : Byte) : (s.pushByte x).sync = s.sync := rfl
@[simp] theorem State.pushByte_buf (x : Byte) : (s.pushByte x).buf = s.buf.set s.cnt x := rfl
@[simp] theorem State.pushByte_cnt (x : Byte) : (s.pushByte x).cnt = s.cnt + 1 := rfl
@[simp] theorem State.pushByte_ovf (x : Byte) : (s.pushByte x).ovf = s.ovf := rfl
@[simp] theorem State.pushByte_pendValid (x : Byte) : (s.pushByte x).pendValid = s.pendValid := rfl
@[simp] theorem State.pushByte_pendRec (x : Byte) : (s.pushByte x).pendRec = s.pendRec := rfl
@[simp] theorem State.pushByte_evt (x : Byte) : (s.pushByte x).evt = s.evt := rfl
@[simp] theorem State.pushByte_events (x : Byte) : (s.pushByte x).events = s.events := rfl
@[simp] theorem State.pushByte_accepted (x : Byte) : (s.pushByte x).accepted = s.accepted := rfl
@[simp] theorem State.pushByte_work (x : Byte) : (s.pushByte x).work = s.work := rfl
@[simp] theorem State.pushByte_cfg (x : Byte) : (s.pushByte x).cfg = s.cfg := rfl
@[simp] theorem State.pushByte_source (x : Byte) : (s.pushByte x).source = s.source := rfl
@[simp] theorem State.pushByte_drive (x : Byte) : (s.pushByte x).drive = s.drive := rfl
@[simp] theorem State.pushByte_freeCtr (x : Byte) : (s.pushByte x).freeCtr = s.freeCtr := rfl

@[simp] theorem State.markOverflow_sync : s.markOverflow.sync = s.sync := rfl
@[simp] theorem State.markOverflow_buf : s.markOverflow.buf = s.buf := rfl
@[simp] theorem State.markOverflow_cnt : s.markOverflow.cnt = s.cnt := rfl
@[simp] theorem State.markOverflow_ovf : s.markOverflow.ovf = true := rfl
@[simp] theorem State.markOverflow_pendValid : s.markOverflow.pendValid = s.pendValid := rfl
@[simp] theorem State.markOverflow_pendRec : s.markOverflow.pendRec = s.pendRec := rfl
@[simp] theorem State.markOverflow_evt : s.markOverflow.evt = s.evt := rfl
@[simp] theorem State.markOverflow_events : s.markOverflow.events = s.events := rfl
@[simp] theorem State.markOverflow_accepted : s.markOverflow.accepted = s.accepted := rfl
@[simp] theorem State.markOverflow_work : s.markOverflow.work = s.work := rfl
@[simp] theorem State.markOverflow_cfg : s.markOverflow.cfg = s.cfg := rfl
@[simp] theorem State.markOverflow_source : s.markOverflow.source = s.source := rfl
@[simp] theorem State.markOverflow_drive : s.markOverflow.drive = s.drive := rfl
@[simp] theorem State.markOverflow_freeCtr : s.markOverflow.freeCtr = s.freeCtr := rfl

@[simp] theorem State.startFrame_sync : s.startFrame.sync = s.sync := rfl
@[simp] theorem State.startFrame_buf : s.startFrame.buf = s.buf := rfl
@[simp] theorem State.startFrame_cnt : s.startFrame.cnt = 0 := rfl
@[simp] theorem State.startFrame_ovf : s.startFrame.ovf = false := rfl
@[simp] theorem State.startFrame_pendValid : s.startFrame.pendValid = s.pendValid := rfl
@[simp] theorem State.startFrame_pendRec : s.startFrame.pendRec = s.pendRec := rfl
@[simp] theorem State.startFrame_evt : s.startFrame.evt = s.evt := rfl
@[simp] theorem State.startFrame_events : s.startFrame.events = s.events := rfl
@[simp] theorem State.startFrame_accepted : s.startFrame.accepted = s.accepted := rfl
@[simp] theorem State.startFrame_work : s.startFrame.work = s.work := rfl
@[simp] theorem State.startFrame_cfg : s.startFrame.cfg = s.cfg := rfl
@[simp] theorem State.startFrame_source : s.startFrame.source = s.source := rfl
@[simp] theorem State.startFrame_drive : s.startFrame.drive = s.drive := rfl
@[simp] theorem State.startFrame_freeCtr : s.startFrame.freeCtr = s.freeCtr := rfl

@[simp] theorem State.raiseEvent_sync (e : Event) : (s.raiseEvent e).sync = s.sync := rfl
@[simp] theorem State.raiseEvent_buf (e : Event) : (s.raiseEvent e).buf = s.buf := rfl
@[simp] theorem State.raiseEvent_cnt (e : Event) : (s.raiseEvent e).cnt = s.cnt := rfl
@[simp] theorem State.raiseEvent_ovf (e : Event) : (s.raiseEvent e).ovf = s.ovf := rfl
@[simp] theorem State.raiseEvent_pendValid (e : Event) : (s.raiseEvent e).pendValid = s.pendValid := rfl
@[simp] theorem State.raiseEvent_pendRec (e : Event) : (s.raiseEvent e).pendRec = s.pendRec := rfl
@[simp] theorem State.raiseEvent_evt (e : Event) : (s.raiseEvent e).evt = some e := rfl
@[simp] theorem State.raiseEvent_events (e : Event) : (s.raiseEvent e).events = s.events ++ [e] := rfl
@[simp] theorem State.raiseEvent_accepted (e : Event) : (s.raiseEvent e).accepted = s.accepted := rfl
@[simp] theorem State.raiseEvent_work (e : Event) : (s.raiseEvent e).work = s.work := rfl
@[simp] theorem State.raiseEvent_cfg (e : Event) : (s.raiseEvent e).cfg = s.cfg := rfl
@[simp] theorem State.raiseEvent_source (e : Event) : (s.raiseEvent e).source = s.source := rfl
@[simp] theorem State.raiseEvent_drive (e : Event) : (s.raiseEvent e).drive = s.drive := rfl
@[simp] theorem State.raiseEvent_freeCtr (e : Event) : (s.raiseEvent e).freeCtr = s.freeCtr := rfl

@[simp] theorem State.emit_sync (r : List Word) : (s.emit r).sync = s.sync := rfl
@[simp] theorem State.emit_buf (r : List Word) : (s.emit r).buf = s.buf := rfl
@[simp] theorem State.emit_cnt (r : List Word) : (s.emit r).cnt = s.cnt := rfl
@[simp] theorem State.emit_ovf (r : List Word) : (s.emit r).ovf = s.ovf := rfl
@[simp] theorem State.emit_pendValid (r : List Word) : (s.emit r).pendValid = true := rfl
@[simp] theorem State.emit_pendRec (r : List Word) : (s.emit r).pendRec = r := rfl
@[simp] theorem State.emit_evt (r : List Word) : (s.emit r).evt = s.evt := rfl
@[simp] theorem State.emit_events (r : List Word) : (s.emit r).events = s.events := rfl
@[simp] theorem State.emit_accepted (r : List Word) : (s.emit r).accepted = s.accepted := rfl
@[simp] theorem State.emit_work (r : List Word) : (s.emit r).work = s.work := rfl
@[simp] theorem State.emit_cfg (r : List Word) : (s.emit r).cfg = s.cfg := rfl
@[simp] theorem State.emit_source (r : List Word) : (s.emit r).source = s.source := rfl
@[simp] theorem State.emit_drive (r : List Word) : (s.emit r).drive = s.drive := rfl
@[simp] theorem State.emit_freeCtr (r : List Word) : (s.emit r).freeCtr = s.freeCtr := rfl

@[simp] theorem State.takeRecord_sync : s.takeRecord.sync = s.sync := rfl
@[simp] theorem State.takeRecord_buf : s.takeRecord.buf = s.buf := rfl
@[simp] theorem State.takeRecord_cnt : s.takeRecord.cnt = s.cnt := rfl
@[simp] theorem State.takeRecord_ovf : s.takeRecord.ovf = s.ovf := rfl
@[simp] theorem State.takeRecord_pendValid : s.takeRecord.pendValid = false := rfl
@[simp] theorem State.takeRecord_pendRec : s.takeRecord.pendRec = s.pendRec := rfl
@[simp] theorem State.takeRecord_evt : s.takeRecord.evt = s.evt := rfl
@[simp] theorem State.takeRecord_events : s.takeRecord.events = s.events := rfl
@[simp] theorem State.takeRecord_accepted : s.takeRecord.accepted = s.accepted ++ [s.pendRec] := rfl
@[simp] theorem State.takeRecord_work : s.takeRecord.work = s.work := rfl
@[simp] theorem State.takeRecord_cfg : s.takeRecord.cfg = s.cfg := rfl
@[simp] theorem State.takeRecord_source : s.takeRecord.source = s.source := rfl
@[simp] theorem State.takeRecord_drive : s.takeRecord.drive = s.drive := rfl
@[simp] theorem State.takeRecord_freeCtr : s.takeRecord.freeCtr = s.freeCtr := rfl

@[simp] theorem State.putWork_sync (w : Work) : (s.putWork w).sync = s.sync := rfl
@[simp] theorem State.putWork_buf (w : Work) : (s.putWork w).buf = s.buf := rfl
@[simp] theorem State.putWork_cnt (w : Work) : (s.putWork w).cnt = s.cnt := rfl
@[simp] theorem State.putWork_ovf (w : Work) : (s.putWork w).ovf = s.ovf := rfl
@[simp] theorem State.putWork_pendValid (w : Work) : (s.putWork w).pendValid = s.pendValid := rfl
@[simp] theorem State.putWork_pendRec (w : Work) : (s.putWork w).pendRec = s.pendRec := rfl
@[simp] theorem State.putWork_evt (w : Work) : (s.putWork w).evt = s.evt := rfl
@[simp] theorem State.putWork_events (w : Work) : (s.putWork w).events = s.events := rfl
@[simp] theorem State.putWork_accepted (w : Work) : (s.putWork w).accepted = s.accepted := rfl
@[simp] theorem State.putWork_work (w : Work) : (s.putWork w).work = w := rfl
@[simp] theorem State.putWork_cfg (w : Work) : (s.putWork w).cfg = s.cfg := rfl
@[simp] theorem State.putWork_source (w : Work) : (s.putWork w).source = s.source := rfl
@[simp] theorem State.putWork_drive (w : Work) : (s.putWork w).drive = s.drive := rfl
@[simp] theorem State.putWork_freeCtr (w : Work) : (s.putWork w).freeCtr = s.freeCtr := rfl

@[simp] theorem State.beginStep_sync : s.beginStep.sync = s.sync := rfl
@[simp] theorem State.beginStep_buf : s.beginStep.buf = s.buf := rfl
@[simp] theorem State.beginStep_cnt : s.beginStep.cnt = s.cnt := rfl
@[simp] theorem State.beginStep_ovf : s.beginStep.ovf = s.ovf := rfl
@[simp] theorem State.beginStep_pendValid : s.beginStep.pendValid = s.pendValid := rfl
@[simp] theorem State.beginStep_pendRec : s.beginStep.pendRec = s.pendRec := rfl
@[simp] theorem State.beginStep_evt : s.beginStep.evt = none := rfl
@[simp] theorem State.beginStep_events : s.beginStep.events = s.events := rfl
@[simp] theorem State.beginStep_accepted : s.beginStep.accepted = s.accepted := rfl
@[simp] theorem State.beginStep_work : s.beginStep.work = s.work := rfl
@[simp] theorem State.beginStep_cfg : s.beginStep.cfg = s.cfg := rfl
@[simp] theorem State.beginStep_source : s.beginStep.source = s.source := rfl
@[simp] theorem State.beginStep_drive : s.beginStep.drive = s.drive.tail := rfl
@[simp] theorem State.beginStep_freeCtr : s.beginStep.freeCtr = s.freeCtr := rfl

@[simp] theorem State.putSource_sync (bs : List Byte) : (s.putSource bs).sync = s.sync := rfl
@[simp] theorem State.putSource_buf (bs : List Byte) : (s.putSource bs).buf = s.buf := rfl
@[simp] theorem State.putSource_cnt (bs : List Byte) : (s.putSource bs).cnt = s.cnt := rfl
@[simp] theorem State.putSource_ovf (bs : List Byte) : (s.putSource bs).ovf = s.ovf := rfl
@[simp] theorem State.putSource_pendValid (bs : List Byte) : (s.putSource bs).pendValid = s.pendValid := rfl
@[simp] theorem State.putSource_pendRec (bs : List Byte) : (s.putSource bs).pendRec = s.pendRec := rfl
@[simp] theorem State.putSource_evt (bs : List Byte) : (s.putSource bs).evt = s.evt := rfl
@[simp] theorem State.putSource_events (bs : List Byte) : (s.putSource bs).events = s.events := rfl
@[simp] theorem State.putSource_accepted (bs : List Byte) : (s.putSource bs).accepted = s.accepted := rfl
@[simp] theorem State.putSource_work (bs : List Byte) : (s.putSource bs).work = s.work := rfl
@[simp] theorem State.putSource_cfg (bs : List Byte) : (s.putSource bs).cfg = s.cfg := rfl
@[simp] theorem State.putSource_source (bs : List Byte) : (s.putSource bs).source = bs := rfl
@[simp] theorem State.putSource_drive (bs : List Byte) : (s.putSource bs).drive = s.drive := rfl
@[simp] theorem State.putSource_freeCtr (bs : List Byte) : (s.putSource bs).freeCtr = s.freeCtr := rfl

@[simp] theorem State.wipe_sync : s.wipe.sync = .normal := rfl
@[simp] theorem State.wipe_buf : s.wipe.buf = (List.range s.cfg.maxRawLen).map (Config.freeByte s.freeCtr) := rfl
@[simp] theorem State.wipe_cnt : s.wipe.cnt = 0 := rfl
@[simp] theorem State.wipe_ovf : s.wipe.ovf = false := rfl
@[simp] theorem State.wipe_pendValid : s.wipe.pendValid = false := rfl
@[simp] theorem State.wipe_pendRec : s.wipe.pendRec = Config.freeRecord s.freeCtr := rfl
@[simp] theorem State.wipe_evt : s.wipe.evt = s.evt := rfl
@[simp] theorem State.wipe_events : s.wipe.events = s.events := rfl
@[simp] theorem State.wipe_accepted : s.wipe.accepted = s.accepted := rfl
@[simp] theorem State.wipe_work : s.wipe.work = Work.idle := rfl
@[simp] theorem State.wipe_cfg : s.wipe.cfg = s.cfg := rfl
@[simp] theorem State.wipe_source : s.wipe.source = s.source := rfl
@[simp] theorem State.wipe_drive : s.wipe.drive = s.drive := rfl
@[simp] theorem State.wipe_freeCtr : s.wipe.freeCtr = s.freeCtr + 1 := rfl

end Sys2Proof.Machine
end

