-- ==== Sys2Proof/Laws/Ops.lean ====
section
/-! SUPPORT. What each shared operation can do, said once: the fields an update leaves, when a guard answers a next state, and
the cases of the frame pipeline. -/
namespace Sys2Proof.Machine

variable (s t : State)

/-! ### Append and Normal -/

theorem append_of_lt {x : Byte} {s : State} (h : s.cnt < s.cfg.maxRawLen) : append x s = s.pushByte x := if_pos h

theorem append_of_le {x : Byte} {s : State} (h : s.cfg.maxRawLen ≤ s.cnt) : append x s = s.markOverflow :=
  if_neg (Nat.not_lt.mpr h)

/-- Append either writes one byte at `cnt` or sets the overflow mark. -/
theorem append_cases (x : Byte) :
    (s.cnt < s.cfg.maxRawLen ∧ append x s = s.pushByte x) ∨ (s.cfg.maxRawLen ≤ s.cnt ∧ append x s = s.markOverflow) :=
  (Nat.lt_or_ge s.cnt s.cfg.maxRawLen).imp (fun h => ⟨h, append_of_lt h⟩) fun h => ⟨h, append_of_le h⟩

@[simp] theorem append_sync (x : Byte) : (append x s).sync = s.sync := by unfold append; split <;> rfl
@[simp] theorem append_pendValid (x : Byte) : (append x s).pendValid = s.pendValid := by unfold append; split <;> rfl
@[simp] theorem append_pendRec (x : Byte) : (append x s).pendRec = s.pendRec := by unfold append; split <;> rfl
@[simp] theorem append_evt (x : Byte) : (append x s).evt = s.evt := by unfold append; split <;> rfl
@[simp] theorem append_events (x : Byte) : (append x s).events = s.events := by unfold append; split <;> rfl
@[simp] theorem append_accepted (x : Byte) : (append x s).accepted = s.accepted := by unfold append; split <;> rfl
@[simp] theorem append_work (x : Byte) : (append x s).work = s.work := by unfold append; split <;> rfl
@[simp] theorem append_cfg (x : Byte) : (append x s).cfg = s.cfg := by unfold append; split <;> rfl
@[simp] theorem append_source (x : Byte) : (append x s).source = s.source := by unfold append; split <;> rfl
@[simp] theorem append_drive (x : Byte) : (append x s).drive = s.drive := by unfold append; split <;> rfl
@[simp] theorem append_freeCtr (x : Byte) : (append x s).freeCtr = s.freeCtr := by unfold append; split <;> rfl

theorem normalByte_mark : normalByte 0xFF s = s.putSync .sawFf := if_pos rfl

theorem normalByte_literal {b : Byte} (h : b ≠ 0xFF) : normalByte b s = append b s := if_neg h

/-- Append does not read `sync`. -/
theorem append_putSync (x : Byte) (v : Sync) : append x (s.putSync v) = (append x s).putSync v := by
  obtain ⟨h, e⟩ | ⟨h, e⟩ := append_cases s x
  · rw [e, append_of_lt (by simpa using h)]; rfl
  · rw [e, append_of_le (by simpa using h)]; rfl

/-- The buffer part of R36: Append keeps the buffer's size and the bounds of `cnt` and `ovf`. -/
theorem append_keeps_bounds (x : Byte) (hb : s.buf.length = s.cfg.maxRawLen) (hc : s.cnt ≤ s.cfg.maxRawLen)
    (ho : s.ovf = true → s.cnt = s.cfg.maxRawLen) :
    (append x s).buf.length = s.cfg.maxRawLen ∧ (append x s).cnt ≤ s.cfg.maxRawLen ∧
      ((append x s).ovf = true → (append x s).cnt = s.cfg.maxRawLen) := by
  obtain ⟨h, e⟩ | ⟨h, e⟩ := append_cases s x <;> rw [e]
  · refine ⟨by simpa using hb, h, fun h' => ?_⟩
    have := ho h'
    omega
  · exact ⟨hb, hc, fun _ => Nat.le_antisymm hc h⟩

/-! ### Discard and delivery -/

@[simp] theorem discard_sync (e : Event) : (discard e s).sync = s.sync := rfl
@[simp] theorem discard_buf (e : Event) : (discard e s).buf = s.buf := rfl
@[simp] theorem discard_cnt (e : Event) : (discard e s).cnt = s.cnt := rfl
@[simp] theorem discard_ovf (e : Event) : (discard e s).ovf = s.ovf := rfl
@[simp] theorem discard_pendValid (e : Event) : (discard e s).pendValid = s.pendValid := rfl
@[simp] theorem discard_pendRec (e : Event) : (discard e s).pendRec = s.pendRec := rfl
@[simp] theorem discard_evt (e : Event) : (discard e s).evt = some e := rfl
@[simp] theorem discard_events (e : Event) : (discard e s).events = s.events ++ [e] := rfl
@[simp] theorem discard_accepted (e : Event) : (discard e s).accepted = s.accepted := rfl
@[simp] theorem discard_work (e : Event) : (discard e s).work = Work.idle := rfl
@[simp] theorem discard_cfg (e : Event) : (discard e s).cfg = s.cfg := rfl
@[simp] theorem discard_source (e : Event) : (discard e s).source = s.source := rfl
@[simp] theorem discard_drive (e : Event) : (discard e s).drive = s.drive := rfl

@[simp] theorem deliver_sync (ws : List Word) (e : Event) : (deliver ws e s).sync = s.sync := rfl
@[simp] theorem deliver_buf (ws : List Word) (e : Event) : (deliver ws e s).buf = s.buf := rfl
@[simp] theorem deliver_cnt (ws : List Word) (e : Event) : (deliver ws e s).cnt = s.cnt := rfl
@[simp] theorem deliver_ovf (ws : List Word) (e : Event) : (deliver ws e s).ovf = s.ovf := rfl
@[simp] theorem deliver_pendValid (ws : List Word) (e : Event) : (deliver ws e s).pendValid = true := rfl
@[simp] theorem deliver_pendRec (ws : List Word) (e : Event) : (deliver ws e s).pendRec = ws := rfl
@[simp] theorem deliver_evt (ws : List Word) (e : Event) : (deliver ws e s).evt = some e := rfl
@[simp] theorem deliver_events (ws : List Word) (e : Event) : (deliver ws e s).events = s.events ++ [e] := rfl
@[simp] theorem deliver_accepted (ws : List Word) (e : Event) : (deliver ws e s).accepted = s.accepted := rfl
@[simp] theorem deliver_work (ws : List Word) (e : Event) : (deliver ws e s).work = Work.idle := rfl
@[simp] theorem deliver_cfg (ws : List Word) (e : Event) : (deliver ws e s).cfg = s.cfg := rfl
@[simp] theorem deliver_source (ws : List Word) (e : Event) : (deliver ws e s).source = s.source := rfl
@[simp] theorem deliver_drive (ws : List Word) (e : Event) : (deliver ws e s).drive = s.drive := rfl

/-! ### Guards -/

theorem guardCfg_of_wf {s : State} (h : cfgWf s.cfg = true) (k : State → Out) : guardCfg s k = k s := if_pos h

theorem guardCfg_of_ill {s : State} (h : cfgWf s.cfg = false) (k : State → Out) :
    guardCfg s k = .refused .illFormedConfig := if_neg (by simp [h])

/-- A configuration guard that lets an operation through has a well-formed configuration. -/
theorem guardCfg_next {s t : State} {k : State → Out} (h : guardCfg s k = .next t) :
    cfgWf s.cfg = true ∧ k s = .next t := by
  unfold guardCfg at h
  split at h
  · exact ⟨‹_›, h⟩
  · cases h

theorem guardFree_of_wf {s : State} (h : cfgWf s.cfg = true) (hp : s.pendValid = false) (k : State → Out) :
    guardFree s k = k s := by simp [guardFree, guardCfg_of_wf h, hp]

/-- An output-slot guard that lets an operation through has an empty slot. -/
theorem guardFree_next {s t : State} {k : State → Out} (h : guardFree s k = .next t) :
    cfgWf s.cfg = true ∧ s.pendValid = false ∧ k s = .next t := by
  obtain ⟨hw, h⟩ := guardCfg_next h
  split at h
  · cases h
  · exact ⟨hw, Bool.eq_false_iff.mpr ‹_›, h⟩

theorem acceptByte_of_selected {i : Instr} {b : Byte} {s : State} (h : cfgWf s.cfg = true) (hp : s.pendValid = false)
    (hd : decodeByte s.sync b = .ok i) (k : State → Out) : acceptByte i b s k = k s := by
  simp [acceptByte, guardFree_of_wf h hp, hd]

/-- A byte row that completes is the row the decode map selects. -/
theorem acceptByte_next {i : Instr} {b : Byte} {s t : State} {k : State → Out} (h : acceptByte i b s k = .next t) :
    cfgWf s.cfg = true ∧ s.pendValid = false ∧ decodeByte s.sync b = .ok i ∧ k s = .next t := by
  obtain ⟨hw, hp, h⟩ := guardFree_next h
  split at h
  · cases h
  · rename_i j hj
    split at h
    · rename_i hji
      exact ⟨hw, hp, hji ▸ hj, h⟩
    · cases h

/-! ### The frame pipeline -/

/-- ProcessFrame, if it answers, discards with one of three events or delivers a decoder's record (R140). -/
theorem processFrame_cases {s t : State} (h : processFrame s = .next t) :
    (∃ e, (e = .crcMismatch ∨ e = .typeUnregistered ∨ e = .decodePrecond) ∧ t = discard e s) ∨
    (∃ k ws e, decodeKind s.cfg k (destuff s.work.raw) = some (.record ws e) ∧ t = deliver ws e s) := by
  unfold processFrame at h
  dsimp only at h
  split at h
  · cases h
  · cases h; exact .inl ⟨_, .inl rfl, rfl⟩
  · split at h
    · cases h
    · split at h
      · cases h; exact .inl ⟨_, .inr (.inl rfl), rfl⟩
      · split at h
        · cases h
        · cases h; exact .inl ⟨_, .inr (.inr rfl), rfl⟩
        · cases h; exact .inr ⟨_, _, _, ‹_›, rfl⟩

/-- Break, if it answers, starts the next frame empty and then discards with an event or delivers a record (R105). -/
theorem breakFrame_cases {s t : State} (h : breakFrame s = .next t) :
    (∃ e, e ≠ .decoded ∧ e ≠ .decodedEffError ∧ t = discard e s.startFrame) ∨
    (∃ k ws e, decodeKind s.cfg k (destuff (candidate s)) = some (.record ws e) ∧ t = deliver ws e s.startFrame) := by
  unfold breakFrame at h
  dsimp only at h
  split at h
  · cases h; exact .inl ⟨_, by decide, by decide, rfl⟩
  · split at h
    · cases h; exact .inl ⟨_, by decide, by decide, rfl⟩
    · obtain ⟨e, he, rfl⟩ | ⟨k, ws, e, hd, rfl⟩ := processFrame_cases h
      · exact .inl ⟨e, by rcases he with rfl | rfl | rfl <;> decide, by rcases he with rfl | rfl | rfl <;> decide, rfl⟩
      · exact .inr ⟨k, ws, e, hd, rfl⟩

end Sys2Proof.Machine
end

