-- ==== Sys2Proof/Laws/Rows.lean ====
section
/-! SUPPORT. What each row can do, said once: if it answers a next state, the conditions that held and that state. A proof cites
these instead of unfolding a meaning. -/
namespace Sys2Proof.Machine

variable {s t : State} {b : Byte}

/-! ### Byte rows -/

theorem execSyncNFf_next (h : execSyncNFf s = .next t) :
    cfgWf s.cfg = true ∧ s.pendValid = false ∧ decodeByte s.sync 0xFF = .ok .syncNFf ∧ t = s.putSync .sawFf := by
  obtain ⟨hw, hp, hd, h⟩ := acceptByte_next h
  cases h; exact ⟨hw, hp, hd, rfl⟩

theorem execSyncNLit_next (h : execSyncNLit b s = .next t) :
    cfgWf s.cfg = true ∧ s.pendValid = false ∧ decodeByte s.sync b = .ok (.syncNLit b) ∧ t = append b s := by
  obtain ⟨hw, hp, hd, h⟩ := acceptByte_next h
  cases h; exact ⟨hw, hp, hd, rfl⟩

theorem execSyncF00_next (h : execSyncF00 s = .next t) :
    cfgWf s.cfg = true ∧ s.pendValid = false ∧ decodeByte s.sync 0x00 = .ok .syncF00 ∧ t = s.putSync .sawFf00 := by
  obtain ⟨hw, hp, hd, h⟩ := acceptByte_next h
  cases h; exact ⟨hw, hp, hd, rfl⟩

theorem execSyncFLit_next (h : execSyncFLit b s = .next t) :
    cfgWf s.cfg = true ∧ s.pendValid = false ∧ decodeByte s.sync b = .ok (.syncFLit b) ∧
      t = normalByte b ((append 0xFF s).putSync .normal) := by
  obtain ⟨hw, hp, hd, h⟩ := acceptByte_next h
  cases h; exact ⟨hw, hp, hd, rfl⟩

theorem execSyncFzBrk_next (h : execSyncFzBrk s = .next t) :
    cfgWf s.cfg = true ∧ s.pendValid = false ∧ decodeByte s.sync 0x00 = .ok .syncFzBrk ∧
      breakFrame (s.putSync .normal) = .next t :=
  acceptByte_next h

theorem execSyncFzLit_next (h : execSyncFzLit b s = .next t) :
    cfgWf s.cfg = true ∧ s.pendValid = false ∧ decodeByte s.sync b = .ok (.syncFzLit b) ∧
      t = normalByte b ((append 0x00 (append 0xFF s)).putSync .normal) := by
  obtain ⟨hw, hp, hd, h⟩ := acceptByte_next h
  cases h; exact ⟨hw, hp, hd, rfl⟩

/-! ### Stage rows -/

theorem execBrk_next (h : execBrk s = .next t) : cfgWf s.cfg = true ∧ s.pendValid = false ∧ breakFrame s = .next t :=
  guardFree_next h

theorem execProcessFrame_next (h : execProcessFrame s = .next t) :
    cfgWf s.cfg = true ∧ s.pendValid = false ∧ processFrame s = .next t :=
  guardFree_next h

theorem execDestuff_next (h : execDestuff s = .next t) :
    cfgWf s.cfg = true ∧ t = s.putWork { s.work with frame := destuff s.work.raw } := by
  obtain ⟨hw, h⟩ := guardCfg_next h
  cases h; exact ⟨hw, rfl⟩

theorem execCrcCheck_next (h : execCrcCheck s = .next t) :
    cfgWf s.cfg = true ∧
      ((crcAccepts s.work.frame = some false ∧ t = discard .crcMismatch s) ∨
       (crcAccepts s.work.frame = some true ∧ t = s.putWork { s.work with crc := crc s.work.frame.dropLast })) := by
  obtain ⟨hw, h⟩ := guardCfg_next h
  refine ⟨hw, ?_⟩
  split at h <;> cases h
  · exact .inl ⟨‹_›, rfl⟩
  · exact .inr ⟨‹_›, rfl⟩

theorem execEfficiency_next (h : execEfficiency s = .next t) :
    cfgWf s.cfg = true ∧ t = s.putWork { s.work with
      eff := signedWord (efficiency s.cfg s.work.temp).1, effError := (efficiency s.cfg s.work.temp).2 } := by
  obtain ⟨hw, h⟩ := guardCfg_next h
  cases h; exact ⟨hw, rfl⟩

theorem execEfficiencyDomainError_next (h : execEfficiencyDomainError s = .next t) :
    cfgWf s.cfg = true ∧ effOutOfDomain s.work.temp = true ∧ t = s.putWork { s.work with eff := 0, effError := true } := by
  obtain ⟨hw, h⟩ := guardCfg_next h
  split at h <;> cases h
  exact ⟨hw, ‹_›, rfl⟩

/-! ### Frame rows -/

theorem runDecoder_next {k : Kind} (h : runDecoder k s = .next t) :
    cfgWf s.cfg = true ∧ ∃ r, decodeKind s.cfg k s.work.frame = some r ∧ t = s.putWork { s.work with result := r } := by
  obtain ⟨hw, h⟩ := guardCfg_next h
  refine ⟨hw, ?_⟩
  split at h <;> cases h
  exact ⟨_, ‹_›, rfl⟩

/-- What FRAME_FAST computes on the way leaves the frame, and does not depend on what it writes. -/
@[simp] theorem fastWork_frame (c : Cfg) (w : Work) : (fastWork c w).frame = w.frame := by
  unfold fastWork; split
  · split <;> rfl
  · rfl

theorem execFrameFast_next (h : execFrameFast s = .next t) :
    cfgWf s.cfg = true ∧ ∃ r, decodeFast s.cfg s.work.frame = some r ∧
      t = s.putWork { fastWork s.cfg s.work with result := r } := by
  obtain ⟨hw, r, hr, rfl⟩ := runDecoder_next h
  exact ⟨hw, r, by simpa [decodeKind] using hr, rfl⟩

theorem runDiscardRow_next {i : Instr} {e : Event} (h : runDiscardRow i e s = .next t) :
    cfgWf s.cfg = true ∧ selectedFrameRow s = some i ∧ t = discard e s := by
  obtain ⟨hw, h⟩ := guardCfg_next h
  refine ⟨hw, ?_⟩
  split at h
  · cases h
  · rename_i j hj
    split at h <;> cases h
    rename_i hji
    exact ⟨hji ▸ hj, rfl⟩

/-! ### Handshake and control rows -/

theorem execSinkTake_next (h : execSinkTake s = .next t) :
    cfgWf s.cfg = true ∧ s.pendValid = true ∧ t = s.takeRecord := by
  obtain ⟨hw, h⟩ := guardCfg_next h
  split at h <;> cases h
  exact ⟨hw, ‹_›, rfl⟩

theorem execReset_next (h : execReset s = .next t) : cfgWf s.cfg = true ∧ t = s.wipe := by
  obtain ⟨hw, h⟩ := guardCfg_next h
  cases h; exact ⟨hw, rfl⟩

/-! ### Normal -/

@[simp] theorem normalByte_cfg : (normalByte b s).cfg = s.cfg := by unfold normalByte; split <;> simp
@[simp] theorem normalByte_evt : (normalByte b s).evt = s.evt := by unfold normalByte; split <;> simp
@[simp] theorem normalByte_events : (normalByte b s).events = s.events := by unfold normalByte; split <;> simp
@[simp] theorem normalByte_pendValid : (normalByte b s).pendValid = s.pendValid := by unfold normalByte; split <;> simp
@[simp] theorem normalByte_pendRec : (normalByte b s).pendRec = s.pendRec := by unfold normalByte; split <;> simp
@[simp] theorem normalByte_accepted : (normalByte b s).accepted = s.accepted := by unfold normalByte; split <;> simp
@[simp] theorem normalByte_source : (normalByte b s).source = s.source := by unfold normalByte; split <;> simp
@[simp] theorem normalByte_work : (normalByte b s).work = s.work := by unfold normalByte; split <;> simp
@[simp] theorem normalByte_drive : (normalByte b s).drive = s.drive := by unfold normalByte; split <;> simp

/-- Normal either holds a mark or appends a literal. -/
theorem normalByte_cases : normalByte b s = s.putSync .sawFf ∨ normalByte b s = append b s := by
  unfold normalByte; split
  · exact .inl rfl
  · exact .inr rfl

end Sys2Proof.Machine
end

