-- ==== Sys2Proof/Laws/Environment.lean ====
section
/-! SUPPORT. No operation reads or writes the environment: the plan of input levels and the bytes still to be offered. -/
namespace Sys2Proof.Machine

/-- The state with another plan of input levels. -/
def State.withPlan (s : State) (plan : List Drive) : State := { s with drive := plan }

variable {s t : State} {plan : List Drive}

@[simp] theorem State.withPlan_drive : (s.withPlan plan).drive = plan := rfl
@[simp] theorem State.withPlan_cfg : (s.withPlan plan).cfg = s.cfg := rfl
@[simp] theorem State.withPlan_sync : (s.withPlan plan).sync = s.sync := rfl
@[simp] theorem State.withPlan_pendValid : (s.withPlan plan).pendValid = s.pendValid := rfl
@[simp] theorem State.withPlan_source : (s.withPlan plan).source = s.source := rfl
@[simp] theorem State.withPlan_work : (s.withPlan plan).work = s.work := rfl
@[simp] theorem State.withPlan_ovf : (s.withPlan plan).ovf = s.ovf := rfl
@[simp] theorem candidate_withPlan : candidate (s.withPlan plan) = candidate s := rfl

theorem State.withPlan_of_drive (h : s.drive = plan) : s.withPlan plan = s := by
  cases s; cases h; rfl

/-! ### The plan is not read -/

theorem append_withPlan (b : Byte) (s : State) (plan : List Drive) :
    append b (s.withPlan plan) = (append b s).withPlan plan := by
  unfold append State.withPlan; dsimp only; split <;> rfl

theorem normalByte_withPlan (b : Byte) (s : State) (plan : List Drive) :
    normalByte b (s.withPlan plan) = (normalByte b s).withPlan plan := by
  unfold normalByte; split
  · rfl
  · exact append_withPlan b s plan

theorem guardCfg_withPlan {k : State → Out} (h : guardCfg s k = .next t)
    (hk : k s = .next t → k (s.withPlan plan) = .next (t.withPlan plan)) :
    guardCfg (s.withPlan plan) k = .next (t.withPlan plan) := by
  obtain ⟨hw, h⟩ := guardCfg_next h
  rw [guardCfg_of_wf (by exact hw)]; exact hk h

theorem guardFree_withPlan {k : State → Out} (h : guardFree s k = .next t)
    (hk : k s = .next t → k (s.withPlan plan) = .next (t.withPlan plan)) :
    guardFree (s.withPlan plan) k = .next (t.withPlan plan) := by
  obtain ⟨hw, hp, h⟩ := guardFree_next h
  rw [guardFree_of_wf (by exact hw) (by exact hp)]; exact hk h

theorem acceptByte_withPlan {i : Instr} {b : Byte} {k : State → Out} (h : acceptByte i b s k = .next t)
    (hk : k s = .next t → k (s.withPlan plan) = .next (t.withPlan plan)) :
    acceptByte i b (s.withPlan plan) k = .next (t.withPlan plan) := by
  obtain ⟨hw, hp, hd, h⟩ := acceptByte_next h
  rw [acceptByte_of_selected (by exact hw) (by exact hp) (by exact hd)]; exact hk h

theorem processFrame_withPlan (h : processFrame s = .next t) :
    processFrame (s.withPlan plan) = .next (t.withPlan plan) := by
  unfold processFrame at h ⊢
  simp only [State.withPlan_work, State.withPlan_cfg] at h ⊢
  cases h1 : crcAccepts (destuff s.work.raw) with
  | none => simp [h1] at h
  | some b =>
    cases b <;> simp only [h1] at h ⊢
    · cases h; rfl
    · cases h2 : frameRead (destuff s.work.raw) 2 with
      | none => simp [h2] at h
      | some ty =>
        simp only [h2] at h ⊢
        cases h3 : registry s.cfg ty with
        | none => simp only [h3] at h ⊢; cases h; rfl
        | some k =>
          simp only [h3] at h ⊢
          cases h4 : decodeKind s.cfg k (destuff s.work.raw) with
          | none => simp [h4] at h
          | some r => cases r <;> simp only [h4] at h ⊢ <;> cases h <;> rfl

theorem breakFrame_withPlan (h : breakFrame s = .next t) : breakFrame (s.withPlan plan) = .next (t.withPlan plan) := by
  have eo : (s.withPlan plan).ovf = s.ovf := rfl
  have ec : candidate (s.withPlan plan) = candidate s := rfl
  unfold breakFrame at h ⊢
  simp only [ec] at h ⊢
  split at h
  · rename_i ho; rw [if_pos (eo.trans ho)]; cases h; rfl
  · rename_i ho
    rw [if_neg fun q => ho (eo.symm.trans q)]
    split at h
    · rename_i h5; rw [if_pos h5]; cases h; rfl
    · rename_i h5; rw [if_neg h5]; exact processFrame_withPlan h

theorem runDecoder_withPlan {k : Kind} (h : runDecoder k s = .next t) :
    runDecoder k (s.withPlan plan) = .next (t.withPlan plan) := by
  obtain ⟨hw, r, hr, rfl⟩ := runDecoder_next h
  unfold runDecoder
  rw [guardCfg_of_wf (by exact hw)]
  simp only [State.withPlan_cfg, State.withPlan_work, hr]; rfl

theorem runDiscardRow_withPlan {i : Instr} {e : Event} (h : runDiscardRow i e s = .next t) :
    runDiscardRow i e (s.withPlan plan) = .next (t.withPlan plan) := by
  obtain ⟨hw, hs, rfl⟩ := runDiscardRow_next h
  have hs' : selectedFrameRow (s.withPlan plan) = some i := hs
  unfold runDiscardRow
  rw [guardCfg_of_wf (by exact hw)]
  simp only [hs', if_true]; rfl

/-- What an operation does, it does under every plan, and it leaves the plan. -/
theorem exec_withPlan {i : Instr} (h : exec i s = .next t) : exec i (s.withPlan plan) = .next (t.withPlan plan) := by
  cases i <;> simp only [exec] at h ⊢
  case syncNFf => exact acceptByte_withPlan h fun h => by cases h; rfl
  case syncNLit => exact acceptByte_withPlan h fun h => by cases h; rw [append_withPlan]
  case syncF00 => exact acceptByte_withPlan h fun h => by cases h; rfl
  case syncFLit b =>
    exact acceptByte_withPlan h fun h => by
      cases h; rw [append_withPlan]
      exact congrArg _ (normalByte_withPlan b ((append 0xFF s).putSync .normal) plan)
  case syncFzBrk => exact acceptByte_withPlan h fun h => breakFrame_withPlan h
  case syncFzLit b =>
    exact acceptByte_withPlan h fun h => by
      cases h; rw [append_withPlan, append_withPlan]
      exact congrArg _ (normalByte_withPlan b ((append 0x00 (append 0xFF s)).putSync .normal) plan)
  case brk => exact guardFree_withPlan h breakFrame_withPlan
  case processFrame => exact guardFree_withPlan h processFrame_withPlan
  case destuff => exact guardCfg_withPlan h fun h => by cases h; rfl
  case crcCheck =>
    obtain ⟨hw, ⟨q, rfl⟩ | ⟨q, rfl⟩⟩ := execCrcCheck_next h
    all_goals
      unfold execCrcCheck
      rw [guardCfg_of_wf (by exact hw)]
      simp only [State.withPlan_work, q]; rfl
  case frameFast => exact runDecoder_withPlan h
  case frameSlow => exact runDecoder_withPlan h
  case frameDhw => exact runDecoder_withPlan h
  case frameRoom => exact runDecoder_withPlan h
  case frameUnregistered => exact runDiscardRow_withPlan h
  case decodePrecond => exact runDiscardRow_withPlan h
  case efficiency => exact guardCfg_withPlan h fun h => by cases h; rfl
  case efficiencyDomainError =>
    obtain ⟨hw, q, rfl⟩ := execEfficiencyDomainError_next h
    unfold execEfficiencyDomainError
    rw [guardCfg_of_wf (by exact hw), if_pos (by exact q)]; rfl
  case sinkTake =>
    obtain ⟨hw, q, rfl⟩ := execSinkTake_next h
    unfold execSinkTake
    rw [guardCfg_of_wf (by exact hw), if_pos (by exact q)]; rfl
  case reset => exact guardCfg_withPlan h fun h => by cases h; rfl

/-! ### The offered bytes are not touched -/

theorem breakFrame_source (h : breakFrame s = .next t) : t.source = s.source := by
  obtain ⟨e, _, _, rfl⟩ | ⟨k, ws, e, _, rfl⟩ := breakFrame_cases h <;> rfl

/-- Only a step takes a byte from the Byte Source, never an operation. -/
theorem exec_source {i : Instr} (h : exec i s = .next t) : t.source = s.source := by
  cases i <;> simp only [exec] at h
  case syncNFf => obtain ⟨_, _, _, rfl⟩ := execSyncNFf_next h; rfl
  case syncNLit => obtain ⟨_, _, _, rfl⟩ := execSyncNLit_next h; simp
  case syncF00 => obtain ⟨_, _, _, rfl⟩ := execSyncF00_next h; rfl
  case syncFLit => obtain ⟨_, _, _, rfl⟩ := execSyncFLit_next h; simp
  case syncFzBrk =>
    obtain ⟨_, _, _, h⟩ := execSyncFzBrk_next h
    have := breakFrame_source h
    exact this
  case syncFzLit => obtain ⟨_, _, _, rfl⟩ := execSyncFzLit_next h; simp
  case brk => exact breakFrame_source (execBrk_next h).2.2
  case processFrame =>
    obtain ⟨e, _, rfl⟩ | ⟨k, ws, e, _, rfl⟩ := processFrame_cases (execProcessFrame_next h).2.2 <;> rfl
  case destuff => obtain ⟨_, rfl⟩ := execDestuff_next h; rfl
  case crcCheck => obtain ⟨_, rfl⟩ | ⟨_, rfl⟩ := (execCrcCheck_next h).2 <;> rfl
  case frameFast => obtain ⟨_, _, _, rfl⟩ := execFrameFast_next h; rfl
  case frameSlow => obtain ⟨_, _, _, rfl⟩ := runDecoder_next h; rfl
  case frameDhw => obtain ⟨_, _, _, rfl⟩ := runDecoder_next h; rfl
  case frameRoom => obtain ⟨_, _, _, rfl⟩ := runDecoder_next h; rfl
  case frameUnregistered => obtain ⟨_, _, rfl⟩ := runDiscardRow_next h; rfl
  case decodePrecond => obtain ⟨_, _, rfl⟩ := runDiscardRow_next h; rfl
  case efficiency => obtain ⟨_, rfl⟩ := execEfficiency_next h; rfl
  case efficiencyDomainError => obtain ⟨_, _, rfl⟩ := execEfficiencyDomainError_next h; rfl
  case sinkTake => obtain ⟨_, _, rfl⟩ := execSinkTake_next h; rfl
  case reset => obtain ⟨_, rfl⟩ := execReset_next h; rfl

end Sys2Proof.Machine
end

