-- ==== Sys2Proof/Laws/PerInstr.lean ====
section
/-! SUPPORT. Laws made per operation: a code that selects an operation has the format the opcode table gives its row. -/
namespace Sys2Proof.Laws.CodeFormat

/-- The selectors, by the opcode table's `format` (the two efficiency rows stand inside a stage and are selected by the
temperature; the handshake and control rows by port levels). -/
inductive Format where
  | syncByte
  | frameStage
  | frameType
  | temperature
  | ports
  deriving DecidableEq, Repr

/-- The format of a code. -/
def ofCode : Code → Format
  | .byte _ _ => .syncByte
  | .stage _ => .frameStage
  | .temp _ => .temperature
  | .frame _ _ => .frameType
  | .ports _ _ _ => .ports

/-- The format of an operation's row. -/
def ofInstr : Instr → Format
  | .syncNFf => .syncByte
  | .syncNLit _ => .syncByte
  | .syncF00 => .syncByte
  | .syncFLit _ => .syncByte
  | .syncFzBrk => .syncByte
  | .syncFzLit _ => .syncByte
  | .brk => .frameStage
  | .processFrame => .frameStage
  | .destuff => .frameStage
  | .crcCheck => .frameStage
  | .frameFast => .frameType
  | .frameSlow => .frameType
  | .frameDhw => .frameType
  | .frameRoom => .frameType
  | .frameUnregistered => .frameType
  | .decodePrecond => .frameType
  | .efficiency => .temperature
  | .efficiencyDomainError => .temperature
  | .sinkTake => .ports
  | .reset => .ports

/-- Every code that selects the operation has its row's format. -/
def Statement (i : Instr) : Prop := ∀ (c : Cfg) (code : Code), decode c code = .ok i → ofCode code = ofInstr i

/-- A byte of the stream selects a byte row or nothing. -/
theorem of_byte {sy : Sync} {b : Byte} {i : Instr} (h : decodeByte sy b = .ok i) : ofInstr i = .syncByte := by
  cases sy <;> simp only [decodeByte] at h
  case reserved => cases h
  all_goals split at h <;> cases h <;> rfl

/-- A stage number selects a stage row or nothing. -/
theorem of_stage {n : Nat} {i : Instr} (h : decodeStage n = .ok i) : ofInstr i = .frameStage := by
  unfold decodeStage at h
  split at h <;> cases h <;> rfl

/-- A temperature selects an efficiency row. -/
theorem of_temp (t : Nat) : ofInstr (decodeTemp t) = .temperature := by
  unfold decodeTemp; split <;> rfl

/-- A type byte with a length selects a frame row. -/
theorem of_frame (c : Cfg) (t : Byte) (n : Nat) : ofInstr (decodeFrame c t n) = .frameType := by
  unfold decodeFrame
  split
  · rfl
  · rename_i k _
    split
    · cases k <;> rfl
    · rfl

/-- Port levels select a handshake or control row or nothing. -/
theorem of_ports {r v y : Bool} {i : Instr} (h : decodePorts r v y = .ok i) : ofInstr i = .ports := by
  unfold decodePorts at h
  split at h
  · cases h; rfl
  · split at h <;> cases h; rfl

/-- The statement for any operation: each selector stays inside its own format. -/
theorem all (i : Instr) : Statement i := by
  intro c code h
  cases code with
  | byte sy b => exact (of_byte h).symm
  | stage n => exact (of_stage h).symm
  | temp t => cases h; exact (of_temp t).symm
  | frame t n => cases h; exact (of_frame c t n).symm
  | ports r v y => exact (of_ports h).symm

theorem syncNFf : Statement .syncNFf := all _
theorem syncNLit (b : Byte) : Statement (.syncNLit b) := all _
theorem syncF00 : Statement .syncF00 := all _
theorem syncFLit (b : Byte) : Statement (.syncFLit b) := all _
theorem syncFzBrk : Statement .syncFzBrk := all _
theorem syncFzLit (b : Byte) : Statement (.syncFzLit b) := all _
theorem brk : Statement .brk := all _
theorem processFrame : Statement .processFrame := all _
theorem destuff : Statement .destuff := all _
theorem crcCheck : Statement .crcCheck := all _
theorem frameFast : Statement .frameFast := all _
theorem frameSlow : Statement .frameSlow := all _
theorem frameDhw : Statement .frameDhw := all _
theorem frameRoom : Statement .frameRoom := all _
theorem frameUnregistered : Statement .frameUnregistered := all _
theorem decodePrecond : Statement .decodePrecond := all _
theorem efficiency : Statement .efficiency := all _
theorem efficiencyDomainError : Statement .efficiencyDomainError := all _
theorem sinkTake : Statement .sinkTake := all _
theorem reset : Statement .reset := all _

end Sys2Proof.Laws.CodeFormat
end

