-- ==== Sys2Proof/Laws/Step.lean ====
section
/-! SUPPORT. What the ports can select and what a step can do, said once. -/
namespace Sys2Proof.Machine

/-- What it takes for the ports to select an operation (00_scope.md R7): reset, else the Sink's acceptance, else a byte. -/
theorem fetch_run_cases {s t : State} {i : Instr} (h : fetch s = .run i t) :
    cfgWf s.cfg = true ∧
    (((driveNow s).rst = true ∧ i = .reset ∧ t = s.beginStep) ∨
     ((driveNow s).rst = false ∧ s.pendValid = true ∧ (driveNow s).recReady = true ∧ i = .sinkTake ∧ t = s.beginStep) ∨
     ((driveNow s).rst = false ∧ s.pendValid = false ∧ (driveNow s).inValid = true ∧
        ∃ b bs, s.source = b :: bs ∧ decodeByte s.sync b = .ok i ∧ t = s.beginStep.putSource bs)) := by
  unfold fetch at h
  split at h
  · refine ⟨‹_›, ?_⟩
    cases hr : (driveNow s).rst <;> cases hp : s.pendValid <;> cases hy : (driveNow s).recReady <;>
      simp [decodePorts, recValid, fetchByte, inReady, inOffer, hr, hp, hy] at h
    case true.false.false => exact .inl ⟨rfl, h.1.symm, h.2.symm⟩
    case true.false.true => exact .inl ⟨rfl, h.1.symm, h.2.symm⟩
    case true.true.false => exact .inl ⟨rfl, h.1.symm, h.2.symm⟩
    case true.true.true => exact .inl ⟨rfl, h.1.symm, h.2.symm⟩
    case false.true.true => exact .inr (.inl ⟨rfl, rfl, rfl, h.1.symm, h.2.symm⟩)
    all_goals
      refine .inr (.inr ⟨rfl, rfl, ?_⟩)
      cases hi : (driveNow s).inValid <;> cases hs : s.source <;> simp [hi, hs] at h
      split at h <;> cases h
      exact ⟨rfl, _, _, rfl, ‹_›, rfl⟩
  · cases h

/-- A step that waits only uses up the environment's plan for it. -/
theorem fetch_idle_cases {s t : State} (h : fetch s = .idle t) : cfgWf s.cfg = true ∧ t = s.beginStep := by
  unfold fetch at h
  split at h
  · refine ⟨‹_›, ?_⟩
    split at h
    · cases h
    · unfold fetchByte at h
      split at h
      · split at h <;> cases h
      · cases h; rfl
  · cases h

/-- A step that answers either waits or runs the selected operation. -/
theorem step_next_cases {s t : State} (h : step s = .next t) :
    (fetch s = .idle t ∧ t = s.beginStep) ∨ ∃ i u, fetch s = .run i u ∧ exec i u = .next t := by
  unfold step at h
  split at h
  · exact .inr ⟨_, _, ‹_›, h⟩
  · cases h; exact .inl ⟨‹_›, (fetch_idle_cases ‹_›).2⟩
  · cases h
  · cases h

/-- What the six byte rows do: the decode map selects no other row. -/
theorem decodeByte_ok_cases {sy : Sync} {b : Byte} {i : Instr} (h : decodeByte sy b = .ok i) :
    (sy = .normal ∧ b = 0xFF ∧ i = .syncNFf) ∨ (sy = .normal ∧ b ≠ 0xFF ∧ i = .syncNLit b) ∨
    (sy = .sawFf ∧ b = 0x00 ∧ i = .syncF00) ∨ (sy = .sawFf ∧ b ≠ 0x00 ∧ i = .syncFLit b) ∨
    (sy = .sawFf00 ∧ b = 0x00 ∧ i = .syncFzBrk) ∨ (sy = .sawFf00 ∧ b ≠ 0x00 ∧ i = .syncFzLit b) := by
  cases sy <;> simp only [decodeByte] at h
  case reserved => cases h
  all_goals split at h <;> cases h <;> simp_all

/-! ### Runs -/

/-- One step off the front of a run. -/
theorem run_succ {s t : State} (h : step s = .next t) (n : Nat) :
    Host.Core.run Sys2Proof.core (n + 1) s = Host.Core.run Sys2Proof.core n t := by
  have h' : Sys2Proof.core.step s = .next t := h
  simp only [Host.Core.run, h']

/-- A run that answers goes through a first step that answers. -/
theorem run_succ_next {s t : State} {n : Nat} (h : Host.Core.run Sys2Proof.core (n + 1) s = .next t) :
    ∃ u, step s = .next u ∧ Host.Core.run Sys2Proof.core n u = .next t := by
  simp only [Host.Core.run] at h
  split at h
  · exact ⟨_, ‹_›, h⟩
  · cases h
  · cases h

/-- Two runs, one after the other. -/
theorem run_append {s t : State} {m : Nat} (h : Host.Core.run Sys2Proof.core m s = .next t) (n : Nat) :
    Host.Core.run Sys2Proof.core (m + n) s = Host.Core.run Sys2Proof.core n t := by
  induction m generalizing s with
  | zero => cases h; rw [Nat.zero_add]
  | succ m ih =>
    obtain ⟨u, hu, h⟩ := run_succ_next h
    rw [Nat.add_right_comm, run_succ hu, ih h]

end Sys2Proof.Machine
end

