-- ==== Sys2Proof/Tests/Slice0.lean ====
section
/-! SUPPORT. Tests of one step each, with the spec's vectors (95_test_vectors.md) as expected results; codes written out from the
encodings; ill-formed terms for each check; and for each obligation with hypotheses a state and operands that meet them. -/
/-! One declaration at a time, so that the file needs little memory. -/
set_option Elab.async false

namespace Sys2Proof.Tests
open Sys2Proof Sys2Proof.Machine Sys2Proof.Safety

/-! ### Helpers -/

/-- The state after reset, with the synchronizer in `sy` and `src` at the Byte Source. -/
def at_ (sy : Sync) (src : List Byte) : State := { State.reset with sync := sy, source := src }

/-- The state after reset with `bs` in the frame buffer. -/
def holding (bs : List Byte) : State :=
  { State.reset with buf := bs ++ List.replicate (64 - bs.length) 0, cnt := bs.length }

/-- The state after reset with a raw candidate in progress. -/
def rawFrame (bs : List Byte) : State := { State.reset with work := { Work.idle with raw := bs } }

/-- The state after reset with a destuffed frame in progress. -/
def inFrame (bs : List Byte) : State := { State.reset with work := { Work.idle with frame := bs } }

/-- The state after reset with the temperature `t` in progress. -/
def atTemp (t : Nat) : State := { State.reset with work := { Work.idle with temp := t } }

/-- The state after reset with a record waiting. -/
def waiting : State := { State.reset with pendValid := true, pendRec := [0x00020004, 0x866, 0x866] }

/-- A view of the next state an outcome holds. -/
def view {α : Type} (f : State → α) : Out → Option α
  | .next s => some (f s)
  | .fault _ => none
  | .refused _ => none

/-- The event and the waiting record of a state. -/
def report (s : State) : Option Event × Bool × List Word := (s.evt, s.pendValid, s.pendRec)

/-- The synchronizer's state and the candidate. -/
def sync_ (s : State) : Sync × List Byte × Bool := (s.sync, candidate s, s.ovf)

/-! The logical frames of 95_test_vectors.md. -/

/-- W10, D-ROOM1. -/
def room1 : List Byte := [0x17, 0x10, 0x91, 0, 0, 0x2B, 0, 0xD7, 0, 0, 0, 0, 0, 0, 0, 0, 0, 0, 0xE1]

/-- D-FAST1 with the flow, return and status bytes given and the CRC byte last. -/
def fast (f1 f2 r1 r2 s1 s2 crc : Byte) : List Byte :=
  [0x08, 0x00, 0x18, 0x00, 0x41, f1, f2, 0x64, 0x37, 0, 0, 0, 0, 0, 0, 0x02, 0x44, r1, r2, 0x00, 0x2A, 0x0F, s1, s2, 0x00,
    0xCC, 0, 0, 0, crc]

/-- D-FAST1. -/
def fast1 : List Byte := fast 0x02 0x71 0x01 0xC5 0x2D 0x48 0xF1

/-- D-FAST5: return 5.0. -/
def fast5 : List Byte := fast 0x02 0x71 0x00 0x32 0x2D 0x48 0xCE

/-- D-FAST6: return 150.0. -/
def fast6 : List Byte := fast 0x02 0x71 0x05 0xDC 0x2D 0x48 0x83

/-- D-SLOW2. -/
def slow2 : List Byte :=
  [0x08, 0x00, 0x19, 0, 0, 0, 0, 0, 0x04, 0xD2, 0, 0, 0, 0x28, 0x00, 0xC3, 0x50, 0x00, 0x00, 0x64, 0, 0, 0, 0x00, 0x00, 0xFA,
    0, 0, 0, 0xB7]

/-- D-DHW1. -/
def dhw1 : List Byte := [0x08, 0x00, 0x34, 0, 0, 0x02, 0x64, 0x01, 0xE0, 0, 0, 0, 0, 0x55, 0, 0, 0, 0, 0, 0x1B]

/-- R-1: type 07 is not registered. -/
def unregistered1 : List Byte := [0x10, 0x0B, 0x07, 0x00, 0x01, 0x5C]

/-- R-4: a ROOM frame of 5 bytes. -/
def room5 : List Byte := [0x17, 0x10, 0x91, 0x00, 0xC3]

/-! ### Well-formedness -/

theorem test_wf_refuses_n_lit_mark : (Instr.syncNLit 0xFF).wf = false := by decide
theorem test_wf_refuses_f_lit_zero : (Instr.syncFLit 0x00).wf = false := by decide
theorem test_wf_refuses_fz_lit_zero : (Instr.syncFzLit 0x00).wf = false := by decide
theorem test_wf_admits_literals :
    (Instr.syncNLit 0x00).wf = true ∧ (Instr.syncFLit 0xFF).wf = true ∧ (Instr.syncFzLit 0x01).wf = true := by decide

/-- The spec says TESTCFG is well-formed (section 1.2). -/
theorem test_cfg_testcfg : cfgWf Cfg.test = true := by decide
theorem test_cfg_refuses_equal_types :
    cfgWf { Cfg.test with typeDhw := 0x18 } = false ∧ cfgWf { Cfg.test with typeSlow := 0x91 } = false := by decide
theorem test_cfg_refuses_short_length :
    cfgWf { Cfg.test with lenDhw := 4 } = false := by decide
theorem test_cfg_refuses_small_buffer :
    cfgWf { Cfg.test with maxRawLen := 59 } = false ∧ cfgWf { Cfg.test with maxRawLen := 60 } = true := by decide
theorem test_cfg_refuses_short_table : effTableOk (List.replicate 90 9700) = false := by decide
theorem test_cfg_refuses_wrong_entries : effTableOk (List.replicate 91 9700) = false := by decide
theorem test_cfg_refuses_big_entry :
    effTableOk (List.replicate 36 9700 ++ List.replicate 54 9620 ++ [16777216]) = false := by decide
theorem test_cfg_field_bounds :
    fieldOk 19 ⟨3, 1, .int⟩ = false ∧ fieldOk 19 ⟨17, 2, .int⟩ = false ∧ fieldOk 19 ⟨16, 2, .int⟩ = true ∧
      fieldOk 19 ⟨5, 0, .int⟩ = false ∧ fieldOk 19 ⟨5, 4, .int⟩ = false ∧ fieldOk 19 ⟨5, 1, .scaled 0⟩ = false ∧
      fieldOk 19 ⟨5, 1, .scaled 101⟩ = false ∧ fieldOk 19 ⟨5, 3, .chars2⟩ = false := by decide
theorem test_cfg_layout_kinds :
    fastLayoutOk { Cfg.test.layout.fast with statusCode := ⟨22, 2, .int⟩ } = false ∧
      fastLayoutOk { Cfg.test.layout.fast with errorCode := ⟨24, 2, .chars2⟩ } = false ∧
      fastLayoutOk { Cfg.test.layout.fast with flowTemperature := ⟨5, 2, .int⟩ } = false ∧
      slowLayoutOk 30 { Cfg.test.layout.slow with burnerRuntime := ⟨17, 3, .scaled 10⟩ } = false ∧
      dhwLayoutOk 20 { Cfg.test.layout.dhw with boilerTemperature := ⟨5, 2, .chars2⟩ } = false ∧
      roomLayoutOk { Cfg.test.layout.room with setpoint := ⟨5, 1, .scaled 10⟩ } = false ∧
      roomLayoutOk { Cfg.test.layout.room with actual := ⟨6, 1, .scaled 10⟩ } = false := by decide

/-! ### Decoding: each constructor by a code written out from the spec -/

/-- R61: `FF`, `2B` in NORMAL; `00`, `FF` in SAW_FF; `00`, `12` in SAW_FF00; R21 for value 3. -/
theorem test_decode_bytes :
    decodeByte .normal 0b11111111 = .ok .syncNFf ∧ decodeByte .normal 0b00101011 = .ok (.syncNLit 0x2B) ∧
      decodeByte .sawFf 0b00000000 = .ok .syncF00 ∧ decodeByte .sawFf 0b11111111 = .ok (.syncFLit 0xFF) ∧
      decodeByte .sawFf00 0b00000000 = .ok .syncFzBrk ∧ decodeByte .sawFf00 0b00010010 = .ok (.syncFzLit 0x12) ∧
      decodeByte .reserved 0x00 = .err .reservedSync := by decide

/-- The stage numbers of spec/opcode_table.json. -/
theorem test_decode_stages :
    decodeStage 1 = .ok .brk ∧ decodeStage 2 = .ok .processFrame ∧ decodeStage 3 = .ok .destuff ∧
      decodeStage 4 = .ok .crcCheck ∧ decodeStage 0 = .err .noSuchStage ∧ decodeStage 5 = .err .noSuchStage := by decide

/-- R65 under TESTCFG. -/
theorem test_decode_frames :
    decodeFrame Cfg.test 0x18 30 = .frameFast ∧ decodeFrame Cfg.test 0x19 30 = .frameSlow ∧
      decodeFrame Cfg.test 0x34 20 = .frameDhw ∧ decodeFrame Cfg.test 0b10010001 19 = .frameRoom ∧
      decodeFrame Cfg.test 0x91 18 = .decodePrecond ∧ decodeFrame Cfg.test 0x18 31 = .decodePrecond ∧
      decodeFrame Cfg.test 0x07 30 = .frameUnregistered := by decide

/-- R180, R181. -/
theorem test_decode_temperatures :
    decodeTemp 999 = .efficiencyDomainError ∧ decodeTemp 1000 = .efficiency ∧ decodeTemp 9999 = .efficiency ∧
      decodeTemp 10000 = .efficiencyDomainError := by decide

/-- R34, R220. -/
theorem test_decode_ports :
    decodePorts true true true = .ok .reset ∧ decodePorts false true true = .ok .sinkTake ∧
      decodePorts false true false = .err .noHandshake ∧ decodePorts false false true = .err .noHandshake := by decide

/-- Log entry 7. -/
theorem test_decode_table_word :
    decodeTableWord 8 0xFF = some .syncNFf ∧ decodeTableWord 8 0x00 = some (.syncNLit 0x00) ∧
      decodeTableWord 8 0x100 = none ∧ decodeTableWord 9 0xFF = none := by decide

/-- The host's fetch places a byte that the next step takes. -/
theorem test_fetch_word :
    view sync_ (step (State.reset.withFetchWord 8 0xFF)) = some (.sawFf, [], false) ∧
      view sync_ (step (State.reset.withFetchWord 8 0x2B)) = some (.normal, [0x2B], false) := by decide

/-! ### Frame synchronizer: vectors S1 to S9 and S20 to S22, the last byte of each -/

theorem test_sync_n_ff : view sync_ (exec .syncNFf (holding [0x10])) = some (.sawFf, [0x10], false) := by decide
/-- S20: a full buffer, then FF: held, no overflow. -/
theorem test_sync_n_ff_full :
    view (fun s => (s.sync, s.cnt, s.ovf)) (exec .syncNFf (holding (List.replicate 64 0x11))) =
      some (.sawFf, 64, false) := by decide
/-- S1. -/
theorem test_sync_n_lit : view sync_ (exec (.syncNLit 0x20) (holding [0x10])) = some (.normal, [0x10, 0x20], false) := by decide
/-- R104: a byte beyond MAX_RAW_LEN is dropped and marked. -/
theorem test_sync_n_lit_full :
    view (fun s => (s.cnt, s.ovf)) (exec (.syncNLit 0x41) (holding (List.replicate 64 0x11))) = some (64, true) := by decide
/-- S3. -/
theorem test_sync_f_00 : view sync_ (exec .syncF00 (at_ .sawFf [])) = some (.sawFf00, [], false) := by decide
/-- S4. -/
theorem test_sync_f_lit : view sync_ (exec (.syncFLit 0x12) (at_ .sawFf [])) = some (.normal, [0xFF, 0x12], false) := by decide
/-- S6, second byte. -/
theorem test_sync_f_lit_mark : view sync_ (exec (.syncFLit 0xFF) (at_ .sawFf [])) = some (.sawFf, [0xFF], false) := by decide
/-- S5. -/
theorem test_sync_fz_lit :
    view sync_ (exec (.syncFzLit 0x12) (at_ .sawFf00 [])) = some (.normal, [0xFF, 0x00, 0x12], false) := by decide
/-- S22: the FF fits, the 00 and the 12 are dropped. -/
theorem test_sync_fz_lit_overflow :
    view (fun s => (s.cnt, s.buf.getLast?, s.ovf))
      (exec (.syncFzLit 0x12) { holding (List.replicate 63 0x11) with sync := .sawFf00 }) =
      some (64, some 0xFF, true) := by decide
/-- S10. -/
theorem test_sync_fz_brk :
    view (fun s => (s.sync, s.cnt, s.evt)) (exec .syncFzBrk (at_ .sawFf00 [])) = some (.normal, 0, some .frameShort) := by decide
/-- W3, S13. -/
theorem test_sync_fz_brk_crc :
    view (fun s => (s.sync, s.cnt, s.evt)) (exec .syncFzBrk { holding [1, 2, 3, 4, 5] with sync := .sawFf00 }) =
      some (.normal, 0, some .crcMismatch) := by decide

/-! ### Frame stages -/

/-- W10 at the break: the record of D-ROOM1. -/
theorem test_break_room :
    view report (exec .brk (holding room1)) =
      some (some .decoded, true, [0x00020004, 0x00000866, 0x00000866]) := by decide +kernel
/-- S23: the overflow mark goes first, and no CRC runs. -/
theorem test_break_overflow :
    view (fun s => (s.evt, s.cnt, s.ovf)) (exec .brk { holding room1 with ovf := true }) =
      some (some .frameOverflow, 0, false) := by decide
/-- P3, first line: bit 0 of the CRC byte flipped. -/
theorem test_process_frame_crc :
    view report (exec .processFrame (rawFrame (room1.dropLast ++ [0xE0]))) = some (some .crcMismatch, false, []) := by decide +kernel
/-- W12, D-ROOM2: the doubled FF becomes one data byte. -/
theorem test_process_frame_stuffed :
    view report (exec .processFrame (rawFrame
      [0x17, 0x10, 0x91, 0, 0, 0xFF, 0xFF, 1, 0, 0, 0, 0, 0, 0, 0, 0, 0, 0, 0, 0x37])) =
      some (some .decoded, true, [0x00020004, 0x000031CE, 0x00000A00]) := by decide +kernel
/-- Section 3.2. -/
theorem test_destuff :
    view (fun s => s.work.frame) (exec .destuff (rawFrame [0xFF, 0xFF, 0xFF])) = some [0xFF, 0xFF] ∧
      destuff [0xFF, 0xFF, 0xFF, 0xFF, 0xFF] = [0xFF, 0xFF, 0xFF] ∧ destuff [0xFF, 0x01, 0xFF] = [0xFF, 0x01, 0xFF] ∧
      destuff [0x01, 0xFF, 0xFF, 0x02] = [0x01, 0xFF, 0x02] := by decide
/-- Section 3.3. -/
theorem test_crc_table :
    crc [] = 0x00 ∧ crc [0x80, 0x00] = 0x19 ∧ crc [0x80, 0x80] = 0x99 ∧ crc [1, 2, 3, 4] = 0x02 ∧
      crc [0x08, 0x00, 0x18, 0x00] = 0x70 ∧ crc [0x17, 0x10, 0x91, 0x00] = 0xC3 ∧ crc [0xFF, 0xFF, 0xFF, 0xFF] = 0x78 := by decide
theorem test_crc_step :
    crcStep 0x7F 0x00 = 0xFE ∧ crcStep 0x80 0x00 = 0x19 ∧ crcStep 0x81 0xFF = 0xE4 ∧ crcStep 0xFF 0x00 = 0xE7 := by decide
/-- W6: accepted, and rejected with bit 7 of byte 0 flipped. -/
theorem test_crc_check :
    view (fun s => s.evt) (exec .crcCheck (inFrame [0x10, 0x0B, 0x91, 0x00, 0x97])) = some none ∧
      view (fun s => s.evt) (exec .crcCheck (inFrame [0x90, 0x0B, 0x91, 0x00, 0x97])) = some (some .crcMismatch) := by decide
/-- Section 3.6. -/
theorem test_efficiency :
    view (fun s => (s.work.eff, s.work.effError)) (exec .efficiency (atTemp 4550)) = some (966000, false) ∧
      view (fun s => (s.work.eff, s.work.effError)) (exec .efficiency (atTemp 10000)) = some (0, true) := by decide
theorem test_efficiency_table :
    efficiency Cfg.test 999 = (0, true) ∧ efficiency Cfg.test 1000 = (970000, false) ∧
      efficiency Cfg.test 4530 = (967600, false) ∧ efficiency Cfg.test 4599 = (962080, false) ∧
      efficiency Cfg.test 4600 = (962000, false) ∧ efficiency Cfg.test 9999 = (962000, false) ∧
      efficiency Cfg.test 15000 = (0, true) := by decide
theorem test_efficiency_domain_error :
    view (fun s => (s.work.eff, s.work.effError)) (exec .efficiencyDomainError (atTemp 500)) = some (0, true) ∧
      exec .efficiencyDomainError (atTemp 1000) = .refused .notSelected := ⟨by decide, rfl⟩

/-! ### Conversions and decoders -/

/-- Section 3.5. -/
theorem test_to_int :
    toInt [] = 0 ∧ toInt [0x2B] = 43 ∧ toInt [0x01, 0xC5] = 453 ∧ toInt [0x00, 0x01, 0x00] = 256 ∧
      toInt [0xFF, 0xFF, 0xFF] = 16777215 ∧ toInt [0x12, 0x34, 0x56, 0x78] = 0 := by decide
theorem test_to_scaled_and_chars :
    toScaled [0x2B] 50 = 2150 ∧ toScaled [0xFF, 0xFF, 0xFF] 100 = 1677721500 ∧ toChars2 0x2D 0x48 = 0x2D48 := by decide
/-- Section 3.6, the status table. -/
theorem test_sys_status :
    sysStatus Cfg.test 0x2D48 = (true, 1) ∧ sysStatus Cfg.test 0x3D48 = (true, 2) ∧ sysStatus Cfg.test 0x3048 = (true, 0) ∧
      sysStatus Cfg.test 0x5858 = (false, 0) ∧ statusKnown Cfg.test 0x3048 = true ∧
      statusKnown Cfg.test 0x5858 = false := by decide

/-- The record a decoder row leaves. -/
def result (s : State) : Decoded := s.work.result

/-- D-FAST1 (W7). -/
theorem test_frame_fast :
    view result (exec .frameFast (inFrame fast1)) = some (.record [0x000C0701, 0x41, 0x186A, 0x64, 0x37, 0x16A8, 0x11B2, 0x1A4,
      0x96, 0x2D48, 0xCC, 0x6B8, 0xEC3B0] .decoded) := by decide +kernel
/-- D-FAST6: a domain error and a negative DeltaT. -/
theorem test_frame_fast_domain_error :
    view result (exec .frameFast (inFrame fast6)) = some (.record [0x000C1701, 0x41, 0x186A, 0x64, 0x37, 0x16A8, 0x3A98, 0x1A4,
      0x96, 0x2D48, 0xCC, 0xFFFFDDD2, 0] .decodedEffError) := by decide +kernel
/-- D-SLOW2: a negative HotWaterRuntime. -/
theorem test_frame_slow :
    view result (exec .frameSlow (inFrame slow2)) =
      some (.record [0x00060002, 0x3034, 0x28, 0xC350, 0x64, 0xFA, 0xFFFFFF6A] .decoded) := by decide +kernel
/-- D-DHW1. -/
theorem test_frame_dhw :
    view result (exec .frameDhw (inFrame dhw1)) = some (.record [0x00030003, 0x17E8, 0x12C0, 0x352] .decoded) := by decide
/-- D-ROOM1. -/
theorem test_frame_room :
    view result (exec .frameRoom (inFrame room1)) = some (.record [0x00020004, 0x866, 0x866] .decoded) := by decide
/-- R150: a room decoder on the 5-byte room frame R-4. -/
theorem test_frame_room_precond : view result (exec .frameRoom (inFrame room5)) = some .empty := by decide
/-- R-1 (W11). -/
theorem test_frame_unregistered :
    view report (exec .frameUnregistered (inFrame unregistered1)) = some (some .typeUnregistered, false, []) := by decide
/-- R-4. -/
theorem test_decode_precond :
    view report (exec .decodePrecond (inFrame room5)) = some (some .decodePrecond, false, []) := by decide

/-! ### Handshake and control -/

/-- P1, step 3. -/
theorem test_sink_take :
    view (fun s => (s.pendValid, s.accepted)) (exec .sinkTake waiting) =
      some (false, [[0x00020004, 0x866, 0x866]]) := by decide
/-- R220: the fields the spec fixes. -/
theorem test_reset :
    view (fun s => (s.sync, s.cnt, s.ovf, s.pendValid, s.evt))
      (exec .reset { waiting with sync := .sawFf00, cnt := 7, ovf := true }) =
      some (.normal, 0, false, false, none) := by decide

/-! ### Witnesses: states and operands that meet the hypotheses of the obligations -/

/-- DecodeEncodeRoundTrip. -/
theorem test_witness_round_trip :
    cfgWf Cfg.test = true ∧ (Instr.syncNLit 0xFE).wf = true ∧ (Instr.syncFLit 0x01).wf = true := by decide
/-- EveryByteSelectsOneRow. -/
theorem test_witness_every_byte : Sync.sawFf00 ≠ .reserved := by decide
/-- RegistrySelectsByTypeCode: a type code, and another byte. -/
theorem test_witness_registry :
    cfgWf Cfg.test = true ∧ registry Cfg.test 0x91 = some .room ∧ registry Cfg.test 0x90 = none := by decide
/-- AppendAddsOneByteOrMarksOverflow: 63 bytes, and 64. -/
theorem test_witness_append :
    (holding (List.replicate 63 1)).buf.length = 64 ∧ (holding (List.replicate 63 1)).cnt < 64 ∧
      (holding (List.replicate 64 1)).buf.length = 64 ∧ 64 ≤ (holding (List.replicate 64 1)).cnt := by decide +kernel
/-- NormalMarkIsHeld, NormalLiteralIsAppended. -/
theorem test_witness_normal :
    cfgWf (at_ .normal []).cfg = true ∧ (at_ .normal []).pendValid = false ∧ (at_ .normal []).sync = .normal ∧
      (0xFE : Byte) ≠ 0xFF := by decide
/-- SecondMarkerByteIsHeld, RefutedMarkIsData: the refuting byte FF, and another. -/
theorem test_witness_saw_ff :
    cfgWf (at_ .sawFf []).cfg = true ∧ (at_ .sawFf []).pendValid = false ∧ (at_ .sawFf []).sync = .sawFf ∧
      (0xFF : Byte) ≠ 0x00 ∧ (0x01 : Byte) ≠ 0x00 := by decide
/-- RefutedPairIsData, TripletConfirmsABreak. -/
theorem test_witness_saw_ff00 :
    cfgWf (at_ .sawFf00 []).cfg = true ∧ (at_ .sawFf00 []).pendValid = false ∧ (at_ .sawFf00 []).sync = .sawFf00 ∧
      (0x01 : Byte) ≠ 0x00 := by decide
/-- ByteRowsTouchOnlyTheSynchronizer: each row completes. -/
theorem test_witness_byte_rows :
    (∃ t, exec .syncNFf (at_ .normal []) = .next t) ∧ (∃ t, exec (.syncNLit 1) (at_ .normal []) = .next t) ∧
      (∃ t, exec .syncF00 (at_ .sawFf []) = .next t) ∧ (∃ t, exec (.syncFLit 1) (at_ .sawFf []) = .next t) ∧
      (∃ t, exec (.syncFzLit 1) (at_ .sawFf00 []) = .next t) := ⟨⟨_, rfl⟩, ⟨_, rfl⟩, ⟨_, rfl⟩, ⟨_, rfl⟩, ⟨_, rfl⟩⟩
/-- BreakClassifiesTheCandidate, EventFollowsThePriorityOrder: 4 bytes, 5 bytes, overflow. -/
theorem test_witness_break :
    cfgWf (holding [1, 2, 3, 4]).cfg = true ∧ (holding [1, 2, 3, 4]).pendValid = false ∧
      (holding [1, 2, 3, 4]).ovf = false ∧ (candidate (holding [1, 2, 3, 4])).length < 5 ∧
      (holding room5).pendValid = false ∧ (holding room5).ovf = false ∧ 5 ≤ (candidate (holding room5)).length ∧
      ({ holding room5 with ovf := true } : State).ovf = true := by decide
/-- BreakEntryIsDiscardOrEmission: a discard and an emission. -/
theorem test_witness_break_entry :
    let a : State := { holding room5 with sync := .sawFf00 }
    let b : State := { holding room1 with sync := .sawFf00 }
    cfgWf a.cfg = true ∧ a.pendValid = false ∧ a.sync = .sawFf00 ∧ b.pendValid = false ∧
      view (fun s => s.evt.map isDiscard) (exec .syncFzBrk a) = some (some true) ∧
      view (fun s => s.evt.map isDiscard) (exec .syncFzBrk b) = some (some false) := by decide +kernel
/-- MarkerResynchronizesFromEveryState. -/
theorem test_witness_marker :
    cfgWf (at_ .sawFf00 [0xFF, 0, 0]).cfg = true ∧ (at_ .sawFf00 [0xFF, 0, 0]).sync ≠ .reserved ∧
      (at_ .sawFf00 [0xFF, 0, 0]).pendValid = false ∧ (at_ .sawFf00 [0xFF, 0, 0]).drive = [] ∧
      (at_ .sawFf00 [0xFF, 0, 0]).source = 0xFF :: 0x00 :: 0x00 :: [] := by decide
/-- StuffedFrameIsRecovered: 32 marks, whose stuffed form fills the buffer exactly. -/
theorem test_witness_stuffed :
    ¬ hasTriplet (List.replicate 32 0xFF) ∧
      (let s := at_ .normal (stuff (List.replicate 32 0xFF) ++ [0xFF, 0x00] ++ [0x12])
      cfgWf s.cfg = true ∧ s.buf.length = s.cfg.maxRawLen ∧ (stuff (List.replicate 32 0xFF)).length = s.cfg.maxRawLen ∧
        s.sync = .normal ∧ s.cnt = 0 ∧ s.ovf = false ∧ s.pendValid = false ∧ s.drive = []) :=
  ⟨by unfold hasTriplet; decide, by decide⟩
/-- DoubledMarkBeforeZerosIsABreak: the buffer has one free place. -/
theorem test_witness_doubled_mark :
    let s : State := { holding (List.replicate 63 1) with source := [0xFF, 0xFF, 0, 0] }
    cfgWf s.cfg = true ∧ s.buf.length = s.cfg.maxRawLen ∧ s.cnt + 1 = s.cfg.maxRawLen ∧ s.sync = .normal ∧
      s.pendValid = false ∧ s.drive = [] := by decide +kernel
/-- DestuffCollapsesRunsOfMarks, DestuffedLengthBounds. -/
theorem test_witness_destuff :
    cfgWf (rawFrame [0xFF, 0xFF, 0xFF]).cfg = true ∧ (0xFE : Byte) ≠ 0xFF ∧ 5 ≤ room5.length ∧ 2 * 2 < room5.length := by decide
/-- CrcCheckComparesTheLastByte: acceptance and mismatch. -/
theorem test_witness_crc_check :
    cfgWf (inFrame room5).cfg = true ∧ (inFrame room5).work.frame = [0x17, 0x10, 0x91, 0x00] ++ [0xC3] ∧
      crc [0x17, 0x10, 0x91, 0x00] = 0xC3 ∧ crc [0x17, 0x10, 0x91, 0x00] ≠ 0xC2 := by decide
/-- CrcRejectsEverySingleBitError: the first bit of the first byte and the last bit of the CRC byte. -/
theorem test_witness_crc_bit :
    cfgWf (inFrame []).cfg = true ∧ crcAccepts room5 = some true ∧ 0 < room5.length ∧ 4 < room5.length ∧ 0 < 8 ∧ 7 < 8 ∧
      (inFrame (room5.modify 4 (fun b => b ^^^ (1#8 <<< 7)))).work.frame =
        room5.modify 4 (fun b => b ^^^ (1#8 <<< 7)) := by decide
/-- ProcessFrameIsItsStages: a CRC mismatch, each discarding row, and a record. -/
theorem test_witness_process_frame :
    cfgWf (rawFrame room5).cfg = true ∧ (rawFrame room5).pendValid = false ∧ 5 ≤ (rawFrame room5).work.raw.length ∧
      crc (destuff [1, 2, 3, 4, 5]).dropLast ≠ (destuff [1, 2, 3, 4, 5]).getLastD 0 ∧
      crc (destuff room5).dropLast = (destuff room5).getLastD 0 ∧
      selectedFrameRow (inFrame room5) = some .decodePrecond ∧
      selectedFrameRow (inFrame unregistered1) = some .frameUnregistered ∧
      selectedFrameRow (inFrame room1) = some .frameRoom := by decide
/-- RegistrySelectsByTypeCode (the discard), FailedPreconditionIsDiscarded: another type, another length. -/
theorem test_witness_discards :
    cfgWf (inFrame unregistered1).cfg = true ∧ 3 ≤ unregistered1.length ∧
      (∀ k, unregistered1.getD 2 0 ≠ Cfg.test.typeOf k) ∧ 3 ≤ room5.length ∧ room5.getD 2 0 = Cfg.test.typeOf .room ∧
      room5.length ≠ Cfg.test.lenOf .room ∧ room5.getD 2 0 ≠ Cfg.test.typeOf .fast :=
  ⟨by decide, by decide, by intro k; cases k <;> decide, by decide, by decide, by decide, by decide⟩
/-- ToIntIsTheBigEndianSum: widths 1, 3, 0 and 4. -/
theorem test_witness_to_int :
    1 ≤ [(0x2B : Byte)].length ∧ [(0xFF : Byte), 0xFF, 0xFF].length ≤ 3 ∧ ([] : List Byte).length = 0 ∧
      4 ≤ [(0x12 : Byte), 0x34, 0x56, 0x78].length := by decide
/-- ConversionIsTheFieldValue, FieldWordHoldsTheValue: the last place a field may take, of each kind. -/
theorem test_witness_field :
    fieldOk room1.length ⟨15, 3, .scaled 100⟩ = true ∧ fieldOk room1.length ⟨4, 1, .int⟩ = true ∧
      fieldOk room1.length ⟨16, 2, .chars2⟩ = true := by decide
/-- FastFrameRecord, DerivedDifferencesAreExact; for the other frames of the four record statements, room5. -/
theorem test_witness_fast :
    cfgWf (inFrame fast1).cfg = true ∧ (inFrame fast1).work.frame.length = 30 ∧
      (inFrame fast1).work.frame.getD 2 0 = (inFrame fast1).cfg.typeFast ∧ 3 ≤ room5.length ∧
      room5.getD 2 0 ≠ Cfg.test.typeFast ∧ room5.getD 2 0 ≠ Cfg.test.typeSlow ∧ room5.getD 2 0 ≠ Cfg.test.typeDhw ∧
      room5.length ≠ 19 := by decide
/-- SlowFrameRecord. -/
theorem test_witness_slow :
    cfgWf (inFrame slow2).cfg = true ∧ (inFrame slow2).work.frame.length = (inFrame slow2).cfg.lenSlow ∧
      (inFrame slow2).work.frame.getD 2 0 = (inFrame slow2).cfg.typeSlow := by decide
/-- DhwFrameRecord. -/
theorem test_witness_dhw :
    cfgWf (inFrame dhw1).cfg = true ∧ (inFrame dhw1).work.frame.length = (inFrame dhw1).cfg.lenDhw ∧
      (inFrame dhw1).work.frame.getD 2 0 = (inFrame dhw1).cfg.typeDhw := by decide
/-- RoomFrameRecord. -/
theorem test_witness_room :
    cfgWf (inFrame room1).cfg = true ∧ (inFrame room1).work.frame.length = 19 ∧
      (inFrame room1).work.frame.getD 2 0 = 0x91 := by decide
/-- SystemStatusOfTheCode: a code that is neither special one, in the table and not in it. -/
theorem test_witness_sys_status :
    (0x3048 : Half) ≠ 0x2D48 ∧ (0x3048 : Half) ≠ 0x3D48 ∧ (∃ x, ((0x3048 : Half), x) ∈ Cfg.test.statusTable) ∧
      (0x5858 : Half) ≠ 0x2D48 ∧ (0x5858 : Half) ≠ 0x3D48 ∧ ∀ x, ((0x5858 : Half), x) ∉ Cfg.test.statusTable :=
  ⟨by decide, by decide, ⟨"0H", by decide⟩, by decide, by decide, by intro x; simp [Cfg.test]⟩
/-- EfficiencyInterpolates: both ends of the domain, and both sides. -/
theorem test_witness_efficiency :
    cfgWf (atTemp 1000).cfg = true ∧ 1000 ≤ (atTemp 1000).work.temp ∧ (atTemp 1000).work.temp < 10000 ∧
      1000 ≤ (atTemp 9999).work.temp ∧ (atTemp 9999).work.temp < 10000 ∧ (atTemp 999).work.temp < 1000 ∧
      10000 ≤ (atTemp 10000).work.temp := by decide
/-- EfficiencyDomainErrorIsReported: both sides of the domain, and a FAST frame. -/
theorem test_witness_efficiency_error :
    (atTemp 999).work.temp < 1000 ∧ 10000 ≤ (atTemp 10000).work.temp ∧ cfgWf (inFrame fast5).cfg = true ∧
      (inFrame fast5).work.frame.length = 30 ∧ (inFrame fast5).work.frame.getD 2 0 = (inFrame fast5).cfg.typeFast ∧
      fieldValue fast5 Cfg.test.layout.fast.flowReturnTemperature < 1000 ∧
      10000 ≤ fieldValue fast6 Cfg.test.layout.fast.flowReturnTemperature := by decide
/-- HeaderBytesReachNoRecord: two frames with other sender, receiver, offset and CRC bytes. -/
theorem test_witness_header_bytes :
    let g : List Byte := [9, 8, 0x91, 7] ++ (room1.drop 4).dropLast ++ [0]
    cfgWf Cfg.test = true ∧ room1.length = g.length ∧ room1[2]? = g[2]? ∧ (∀ i < 18, 4 ≤ i → room1[i]? = g[i]?) ∧
      room1[0]? ≠ g[0]? ∧ room1[18]? ≠ g[18]? := by decide
/-- StageRowsWriteOnlyTransients: the rows complete. -/
theorem test_witness_stage_rows :
    (∃ t, exec .destuff (rawFrame room5) = .next t) ∧ (∃ t, exec (kindRow .room) (inFrame room1) = .next t) ∧
      (∃ t, exec .efficiency (atTemp 1000) = .next t) ∧ (∃ t, exec .efficiencyDomainError (atTemp 999) = .next t) :=
  ⟨⟨_, rfl⟩, ⟨_, rfl⟩, ⟨_, rfl⟩, ⟨_, rfl⟩⟩
/-- StepRunsTheSelectedOperation: one state for each clause. -/
theorem test_witness_step :
    let a : State := { at_ .normal [0x12] with drive := [⟨true, true, true⟩] }
    let b : State := { waiting with drive := [⟨false, true, true⟩] }
    let c : State := at_ .normal [0x12]
    cfgWf a.cfg = true ∧ (driveNow a).rst = true ∧
      (driveNow b).rst = false ∧ b.pendValid = true ∧ (driveNow b).recReady = true ∧
      (driveNow c).rst = false ∧ c.pendValid = false ∧ (driveNow c).inValid = true ∧ c.source = 0x12 :: [] ∧
      decodeByte c.sync 0x12 = .ok (.syncNLit 0x12) ∧
      (driveNow waiting).rst = false ∧ waiting.pendValid = true ∧ (driveNow waiting).recReady = false ∧
      (driveNow State.reset).rst = false ∧ State.reset.pendValid = false ∧ State.reset.source = [] := by decide
/-- StalledSinkStallsTheSource: the Sink does not accept for two steps. -/
theorem test_witness_stall :
    let s : State := { waiting with drive := [⟨false, true, false⟩, ⟨false, false, false⟩] }
    cfgWf s.cfg = true ∧ s.pendValid = true ∧ ∀ d ∈ s.drive, d.rst = false ∧ d.recReady = false := by decide
/-- SinkTakesTheRecord, ResetRowRestoresTheResetValues. -/
theorem test_witness_sink_take : cfgWf waiting.cfg = true ∧ waiting.pendValid = true := by decide
/-- The invariant with a record waiting. -/
theorem test_witness_inv : Safety.Inv waiting :=
  ⟨by decide, by decide, by decide, by decide, rfl, fun _ => by simp only [recordOk, waiting]; decide⟩
/-- StepKeepsTheInvariant, NothingStopsTheMachine: a state with the invariant, and its step. -/
theorem test_witness_inv_step :
    Safety.Inv (at_ .normal [0x12]) ∧ cfgWf (at_ .normal [0x12]).cfg = true ∧ ∃ t, step (at_ .normal [0x12]) = .next t :=
  ⟨⟨by decide, by decide, by decide, by decide, rfl, fun h => by cases h⟩, by decide, ⟨_, rfl⟩⟩
/-- OneEventPerConfirmedBreak, RecordsComeFromBreaksInOrder, ConfigurationIsNeverWritten: a break step, and another. -/
theorem test_witness_break_step :
    breakStep (at_ .sawFf00 [0x00]) ∧ (∃ t, step (at_ .sawFf00 [0x00]) = .next t) ∧ ¬ breakStep waiting ∧
      (∃ t, step waiting = .next t) ∧ waiting.pendValid = true := by
  refine ⟨⟨_, rfl⟩, ⟨_, rfl⟩, ?_, ⟨_, rfl⟩, rfl⟩
  rintro ⟨t, h⟩
  have h' : Fetched.idle waiting.beginStep = .run .syncFzBrk t := h
  cases h'
/-- IllFormedConfigurationIsRefused: a configuration that breaks R6, and one with another entry at 46 (log entry 8). -/
theorem test_witness_ill_formed :
    cfgWf (State.resetWith { Cfg.test with lenDhw := 4 }).cfg = false ∧
      cfgWf (State.resetWith { Cfg.test with effTable := List.replicate 91 9700 }).cfg = false := by decide
/-- ReservedSyncValueFaults. -/
theorem test_witness_reserved :
    let s := at_ .reserved [0x12]
    cfgWf s.cfg = true ∧ s.sync = .reserved ∧ s.pendValid = false ∧ (driveNow s).rst = false ∧ (driveNow s).inValid = true ∧
      s.source = 0x12 :: [] := by decide
/-- OutOfRangeReadFaults: an empty frame, and one of two bytes. -/
theorem test_witness_out_of_range :
    cfgWf (inFrame []).cfg = true ∧ (inFrame []).work.frame = [] ∧ (inFrame [1, 2]).work.frame.length < 3 := by decide
/-- EndedRunWaits. -/
theorem test_witness_ended : cfgWf State.reset.cfg = true ∧ State.reset.drive = [] ∧ runEnded State.reset = true := by decide
/-- WaitingStepsDoNotChangeARun: a wait and an offered byte. -/
theorem test_witness_waits :
    let s : State := { at_ .normal [0x12] with drive := [⟨false, false, false⟩, ⟨false, true, false⟩] }
    cfgWf s.cfg = true ∧ Safety.Inv s ∧ s.drive.filter (fun d => !isWait d) = [⟨false, true, false⟩] :=
  ⟨by decide, ⟨by decide, by decide, by decide, by decide, rfl, fun h => by cases h⟩, by decide⟩
/-- MarkerResynchronizesThroughWaits: three offers with waits before and between them. -/
theorem test_witness_marker_waits :
    let s : State := { at_ .sawFf [0xFF, 0, 0] with
      drive := [⟨false, false, false⟩, ⟨false, true, false⟩, ⟨false, true, true⟩, ⟨false, false, true⟩, ⟨false, true, false⟩] }
    cfgWf s.cfg = true ∧ s.sync ≠ .reserved ∧ s.pendValid = false ∧ (∀ d ∈ s.drive, d.rst = false) ∧
      offerSteps s.drive = 3 ∧ s.source = 0xFF :: 0x00 :: 0x00 :: [] := by decide
/-- StuffedFrameIsRecoveredThroughWaits: 32 marks fill the buffer, with a wait before the 66 offers. -/
theorem test_witness_stuffed_waits :
    ¬ hasTriplet (List.replicate 32 0xFF) ∧
      (let s : State := { at_ .normal (stuff (List.replicate 32 0xFF) ++ [0xFF, 0x00] ++ []) with
        drive := ⟨false, false, false⟩ :: List.replicate 66 ⟨false, true, false⟩ }
      cfgWf s.cfg = true ∧ s.buf.length = s.cfg.maxRawLen ∧ (stuff (List.replicate 32 0xFF)).length = s.cfg.maxRawLen ∧
        s.sync = .normal ∧ s.cnt = 0 ∧ s.ovf = false ∧ s.pendValid = false ∧ (∀ d ∈ s.drive, d.rst = false) ∧
        offerSteps s.drive = (stuff (List.replicate 32 0xFF)).length + 2) :=
  ⟨by unfold hasTriplet; decide, by decide +kernel⟩
/-- DoubledMarkIsABreakInAnyBuffer: one free place, and none. -/
theorem test_witness_doubled_mark_any :
    let p : List Drive := ⟨false, false, false⟩ :: List.replicate 4 ⟨false, true, false⟩
    let a : State := { holding (List.replicate 63 1) with source := [0xFF, 0xFF, 0, 0], drive := p }
    let b : State := { holding (List.replicate 64 1) with source := [0xFF, 0xFF, 0, 0], drive := p }
    cfgWf a.cfg = true ∧ a.buf.length = a.cfg.maxRawLen ∧ a.cnt + 1 = a.cfg.maxRawLen ∧ a.sync = .normal ∧
      a.pendValid = false ∧ (∀ d ∈ p, d.rst = false) ∧ offerSteps p = 4 ∧
      cfgWf b.cfg = true ∧ b.buf.length = b.cfg.maxRawLen ∧ b.cnt = b.cfg.maxRawLen ∧ b.sync = .normal ∧
      b.pendValid = false := by decide +kernel

end Sys2Proof.Tests
end

/-! What a step selects under each setting of the ports (00_scope.md R7), and that an ill-formed configuration stops every
operation (R6). -/
namespace Sys2Proof.Machine

variable {s t : State} {i : Instr} {b : Byte} {bs : List Byte}

/-! ### A step, from what the ports select -/

theorem step_of_fetch_run (h : fetch s = .run i t) : step s = exec i t := by simp only [step, h]

theorem step_of_fetch_idle (h : fetch s = .idle t) : step s = .next t := by simp only [step, h]

theorem step_of_ill (h : cfgWf s.cfg = false) : step s = .refused .illFormedConfig := by simp [step, fetch, h]

/-! ### What the ports select -/

/-- Reset goes before the handshake and the byte (R220). -/
theorem fetch_of_rst (hw : cfgWf s.cfg = true) (hr : (driveNow s).rst = true) : fetch s = .run .reset s.beginStep := by
  simp [fetch, hw, decodePorts, hr]

/-- The Sink accepts the waiting record (R34). -/
theorem fetch_of_take (hw : cfgWf s.cfg = true) (hr : (driveNow s).rst = false) (hp : s.pendValid = true)
    (hy : (driveNow s).recReady = true) : fetch s = .run .sinkTake s.beginStep := by
  simp [fetch, hw, decodePorts, recValid, hr, hp, hy]

/-- With neither reset nor an acceptance, the step is left to the byte input. -/
theorem fetch_of_noHandshake (hw : cfgWf s.cfg = true) (hr : (driveNow s).rst = false)
    (hn : s.pendValid = false ∨ (driveNow s).recReady = false) : fetch s = fetchByte s := by
  have hd : (recValid s && (driveNow s).recReady) = false := by rcases hn with h | h <;> simp [recValid, h]
  simp [fetch, hw, decodePorts, hr, hd]

/-- An offered byte leaves the source and goes through the decode map (R108). -/
theorem fetchByte_of_offer (hr : (driveNow s).rst = false) (hp : s.pendValid = false) (hv : (driveNow s).inValid = true)
    (hs : s.source = b :: bs) (hd : decodeByte s.sync b = .ok i) : fetchByte s = .run i (s.beginStep.putSource bs) := by
  simp [fetchByte, inReady, inOffer, hr, hp, hv, hs, hd]

/-- A waiting record stalls the byte input (R33). -/
theorem fetchByte_of_pending (hp : s.pendValid = true) : fetchByte s = .idle s.beginStep := by
  simp [fetchByte, inReady, hp]

theorem fetchByte_of_noOffer (hn : (driveNow s).inValid = false ∨ s.source = []) : fetchByte s = .idle s.beginStep := by
  have ho : inOffer s = none := by rcases hn with h | h <;> simp [inOffer, h]
  simp [fetchByte, ho]

/-- Settles O42, clause by clause: the operation the levels select, then the step that runs it. The plan and the quiet event port
are the model's form (log entries 4, 6 and 9). -/
theorem stepRunsTheSelectedOperation : Obligations.StepRunsTheSelectedOperation := by
  intro s hw
  refine ⟨fun hr => ?reset, fun hr hp hy => ?take, fun b bs i hr hp hv hs hd => ?byte, fun hr h => ?wait⟩
  case reset => exact step_of_fetch_run (fetch_of_rst hw hr)
  case take => exact step_of_fetch_run (fetch_of_take hw hr hp hy)
  case byte =>
    exact step_of_fetch_run ((fetch_of_noHandshake hw hr (.inl hp)).trans (fetchByte_of_offer hr hp hv hs hd))
  case wait =>
    apply step_of_fetch_idle
    obtain ⟨hp, hy⟩ | ⟨hp, hn⟩ := h
    · exact (fetch_of_noHandshake hw hr (.inr hy)).trans (fetchByte_of_pending hp)
    · exact (fetch_of_noHandshake hw hr (.inl hp)).trans (fetchByte_of_noOffer hn)

/-! ### The configuration guard -/

theorem guardFree_of_ill (h : cfgWf s.cfg = false) (k : State → Out) : guardFree s k = .refused .illFormedConfig :=
  guardCfg_of_ill h _

theorem acceptByte_of_ill (h : cfgWf s.cfg = false) (i : Instr) (b : Byte) (k : State → Out) :
    acceptByte i b s k = .refused .illFormedConfig :=
  guardFree_of_ill h _

theorem runDecoder_of_ill (h : cfgWf s.cfg = false) (k : Kind) : runDecoder k s = .refused .illFormedConfig :=
  guardCfg_of_ill h _

theorem runDiscardRow_of_ill (h : cfgWf s.cfg = false) (i : Instr) (e : Event) :
    runDiscardRow i e s = .refused .illFormedConfig :=
  guardCfg_of_ill h _

/-- Every operation meets the configuration guard before anything else (60_exceptions.md R211). -/
theorem exec_of_ill (h : cfgWf s.cfg = false) (i : Instr) : exec i s = .refused .illFormedConfig := by
  cases i <;> simp only [exec]
  case syncNFf | syncNLit | syncF00 | syncFLit | syncFzBrk | syncFzLit => exact acceptByte_of_ill h _ _ _
  case brk | processFrame => exact guardFree_of_ill h _
  case frameFast => exact runDecoder_of_ill (s := s.putWork (fastWork s.cfg s.work)) h _
  case frameSlow | frameDhw | frameRoom => exact runDecoder_of_ill h _
  case frameUnregistered | decodePrecond => exact runDiscardRow_of_ill h _ _
  case destuff | crcCheck | efficiency | efficiencyDomainError | sinkTake | reset => exact guardCfg_of_ill h _

/-- Settles O53: the guard of every operation, and the same check when a step selects one. -/
theorem illFormedConfigurationIsRefused : Obligations.IllFormedConfigurationIsRefused :=
  fun i _ h => ⟨exec_of_ill h i, step_of_ill h⟩

end Sys2Proof.Machine

/-! The record format of 30_encoding.md R70: the header's fields at their bits, and the format of every decoder's record. -/
namespace Sys2Proof.Machine
open Safety

/-! ### The header word -/

section Header
variable (tag : BitVec 4) (known present err : Bool) (value : BitVec 2) (n : Byte)

theorem headerBit_eq_shift (b : Bool) (k : Nat) : headerBit b k = (BitVec.ofBool b).setWidth 32 <<< k := by
  cases b
  · exact (BitVec.zero_shiftLeft k).symm
  · rfl

/-- The header word bit by bit (R70). -/
theorem getElem_header (i : Nat) (hi : i < 32) : (header tag known present value err n)[i] =
    (tag.getLsbD i || (decide (i = 8) && known) || (decide (i = 9) && present) || (decide (10 ≤ i) && value.getLsbD (i - 10)) ||
      (decide (i = 12) && err) || (decide (16 ≤ i) && n.getLsbD (i - 16))) := by
  simp only [header, headerBit_eq_shift]
  interval_cases i <;> simp

@[simp] theorem tagOf_header : tagOf (header tag known present value err n) = tag := by
  ext i hi
  interval_cases i <;> simp [tagOf, getElem_header]

@[simp] theorem knownOf_header : knownOf (header tag known present value err n) = BitVec.ofBool known := by
  ext i hi
  interval_cases i; simp [knownOf, getElem_header]

@[simp] theorem presentOf_header : presentOf (header tag known present value err n) = BitVec.ofBool present := by
  ext i hi
  interval_cases i; simp [presentOf, getElem_header]

@[simp] theorem valueOf_header : valueOf (header tag known present value err n) = value := by
  ext i hi
  interval_cases i <;> simp [valueOf, getElem_header]

@[simp] theorem effErrorOf_header : effErrorOf (header tag known present value err n) = BitVec.ofBool err := by
  ext i hi
  interval_cases i; simp [effErrorOf, getElem_header]

@[simp] theorem nwordsOf_header : nwordsOf (header tag known present value err n) = n := by
  ext i hi
  interval_cases i <;> simp [nwordsOf, getElem_header]

@[simp] theorem header_and_zeroMask : header tag known present value err n &&& headerZeroMask = 0 := by
  ext i hi
  interval_cases i <;> simp [headerZeroMask, getElem_header]

end Header

/-! ### The decoders' records -/

variable {c : Cfg} {f : List Byte} {ws : List Word} {e : Event}

/-- Where the efficiency fails, its value is 0 (R181). -/
theorem efficiency_eq_zero_of_error {t : Nat} (h : (efficiency c t).2 = true) : (efficiency c t).1 = 0 := by
  unfold efficiency at h ⊢
  split
  · rfl
  · split
    · simp_all
    · rfl

/-- What SysStatus answers: one of three values, or nothing (R166). -/
theorem sysStatus_cases (c : Cfg) (code : Half) :
    sysStatus c code = (true, sysHeating) ∨ sysStatus c code = (true, sysHotWater) ∨ sysStatus c code = (true, sysIdle) ∨
      sysStatus c code = (false, 0) := by
  unfold sysStatus
  split
  · exact .inl rfl
  · split
    · exact .inr (.inl rfl)
    · split
      · exact .inr (.inr (.inl rfl))
      · exact .inr (.inr (.inr rfl))

theorem sysStatus_value_of_absent {code : Half} (h : (sysStatus c code).1 = false) : (sysStatus c code).2 = 0 := by
  obtain e | e | e | e := sysStatus_cases c code <;> simp_all

theorem sysStatus_value_ne_three (c : Cfg) (code : Half) : (sysStatus c code).2 ≠ 3 := by
  obtain e | e | e | e := sysStatus_cases c code <;> rw [e] <;> decide

/-- A FAST record has the format of R70. -/
theorem recordOk_of_fastRecord {v : FastValues} (h : fastRecord c v = .record ws e) : recordOk ws := by
  cases h
  refine ⟨by simp, .inl (by simp), by simp, fun hp => ?value, by simpa using sysStatus_value_ne_three c v.code,
    fun he => ?word12⟩
  case value =>
    rw [presentOf_header] at hp
    rw [valueOf_header]
    exact sysStatus_value_of_absent ((BitVec.ofBool_eq_iff_eq (b' := false)).mp hp)
  case word12 =>
    rw [effErrorOf_header] at he
    have hz := efficiency_eq_zero_of_error ((BitVec.ofBool_eq_iff_eq (b' := true)).mp he)
    simp [hz, signedWord]

/-- A record whose header has only tag and word count has the format of R70, if both fit its words. -/
theorem recordOk_plain {tag : BitVec 4} {n : Byte} {body : List Word}
    (ht : tag = 2 ∧ n = 6 ∨ tag = 3 ∧ n = 3 ∨ tag = 4 ∧ n = 2) (hl : body.length = n.toNat) :
    recordOk (header tag false false 0 false n :: body) :=
  ⟨by simp, .inr (by simpa using ht), by simpa using hl, by simp, by simp, by simp⟩

theorem recordOk_of_slowRecord (h : slowRecord c f = some (.record ws e)) : recordOk ws := by
  simp only [slowRecord, Option.bind_eq_bind, Option.bind_eq_some_iff] at h
  obtain ⟨_, _, _, _, _, _, _, _, _, _, h⟩ := h
  cases h
  exact recordOk_plain (by decide) rfl

theorem recordOk_of_dhwRecord (h : dhwRecord c f = some (.record ws e)) : recordOk ws := by
  simp only [dhwRecord, Option.bind_eq_bind, Option.bind_eq_some_iff] at h
  obtain ⟨_, _, _, _, _, _, h⟩ := h
  cases h
  exact recordOk_plain (by decide) rfl

theorem recordOk_of_roomRecord (h : roomRecord c f = some (.record ws e)) : recordOk ws := by
  simp only [roomRecord, Option.bind_eq_bind, Option.bind_eq_some_iff] at h
  obtain ⟨_, _, _, _, h⟩ := h
  cases h
  exact recordOk_plain (by decide) rfl

/-- Every record a decoder makes has the format of R70. -/
theorem recordOk_of_decodeKind {k : Kind} (h : decodeKind c k f = some (.record ws e)) : recordOk ws := by
  cases k <;> simp only [decodeKind, decodeFast, decodeSlow, decodeDhw, decodeRoom] at h <;> split at h
  -- a decoder without a type byte, or whose precondition fails, makes no record
  any_goals cases h
  · split at h
    · cases h
    · exact recordOk_of_fastRecord (Option.some.inj h)
  · exact recordOk_of_slowRecord h
  · exact recordOk_of_dhwRecord h
  · exact recordOk_of_roomRecord h

end Sys2Proof.Machine

/-! The invariant of 10_state.md R36: every update of the state keeps it, so every row a step can select keeps it, so every step
keeps it. -/
namespace Sys2Proof.Machine
open Safety

variable {s t : State} {b : Byte}

/-! ### Updates keep the invariant -/

theorem inv_putSync {v : Sync} (hv : v ≠ .reserved) (h : Safety.Inv s) : Safety.Inv (s.putSync v) := by
  obtain ⟨hc, ho, _, hb, hw, hr⟩ := h
  exact ⟨hc, ho, hv, hb, hw, hr⟩

theorem inv_append (x : Byte) (h : Safety.Inv s) : Safety.Inv (append x s) := by
  obtain ⟨hc, ho, hs, hb, hw, hr⟩ := h
  obtain ⟨hb', hc', ho'⟩ := append_keeps_bounds s x hb hc ho
  simp only [Safety.Inv, append_cfg, append_sync, append_work, append_pendValid, append_pendRec]
  exact ⟨hc', ho', hs, hb', hw, hr⟩

theorem inv_normalByte (h : Safety.Inv s) : Safety.Inv (normalByte b s) := by
  obtain e | e := normalByte_cases (b := b) (s := s) <;> rw [e]
  · exact inv_putSync (by decide) h
  · exact inv_append b h

theorem inv_startFrame (h : Safety.Inv s) : Safety.Inv s.startFrame := by
  obtain ⟨_, _, hs, hb, hw, hr⟩ := h
  exact ⟨Nat.zero_le _, nofun, hs, hb, hw, hr⟩

theorem inv_discard (e : Event) (h : Safety.Inv s) : Safety.Inv (discard e s) := by
  obtain ⟨hc, ho, hs, hb, _, hr⟩ := h
  exact ⟨hc, ho, hs, hb, rfl, hr⟩

theorem inv_deliver {ws : List Word} (e : Event) (hws : recordOk ws) (h : Safety.Inv s) : Safety.Inv (deliver ws e s) := by
  obtain ⟨hc, ho, hs, hb, _, _⟩ := h
  exact ⟨hc, ho, hs, hb, rfl, fun _ => hws⟩

theorem inv_takeRecord (h : Safety.Inv s) : Safety.Inv s.takeRecord := by
  obtain ⟨hc, ho, hs, hb, hw, _⟩ := h
  exact ⟨hc, ho, hs, hb, hw, nofun⟩

/-- RESET establishes the invariant in any state. -/
theorem inv_wipe (s : State) : Safety.Inv s.wipe :=
  ⟨Nat.zero_le _, nofun, by simp, by simp, rfl, nofun⟩

/-- The invariant does not speak of the environment or the event port. -/
theorem inv_beginStep (h : Safety.Inv s) : Safety.Inv s.beginStep := h

theorem inv_putSource (bs : List Byte) (h : Safety.Inv s) : Safety.Inv (s.putSource bs) := h

/-! ### Breaks, byte rows and steps keep the invariant -/

theorem inv_breakFrame (h : breakFrame s = .next t) (hi : Safety.Inv s) : Safety.Inv t := by
  obtain ⟨e, _, _, rfl⟩ | ⟨k, ws, e, hd, rfl⟩ := breakFrame_cases h
  · exact inv_discard e (inv_startFrame hi)
  · exact inv_deliver e (recordOk_of_decodeKind hd) (inv_startFrame hi)

/-- The row the decode map selects for a byte keeps the invariant. -/
theorem inv_exec_of_decodeByte {sy : Sync} {i : Instr} (hd : decodeByte sy b = .ok i) (h : exec i s = .next t)
    (hi : Safety.Inv s) : Safety.Inv t := by
  obtain ⟨_, _, rfl⟩ | ⟨_, _, rfl⟩ | ⟨_, _, rfl⟩ | ⟨_, _, rfl⟩ | ⟨_, _, rfl⟩ | ⟨_, _, rfl⟩ := decodeByte_ok_cases hd
  · obtain ⟨_, _, _, rfl⟩ := execSyncNFf_next h
    exact inv_putSync (by decide) hi
  · obtain ⟨_, _, _, rfl⟩ := execSyncNLit_next h
    exact inv_append b hi
  · obtain ⟨_, _, _, rfl⟩ := execSyncF00_next h
    exact inv_putSync (by decide) hi
  · obtain ⟨_, _, _, rfl⟩ := execSyncFLit_next h
    exact inv_normalByte (inv_putSync (by decide) (inv_append 0xFF hi))
  · obtain ⟨_, _, _, h⟩ := execSyncFzBrk_next h
    exact inv_breakFrame h (inv_putSync (by decide) hi)
  · obtain ⟨_, _, _, rfl⟩ := execSyncFzLit_next h
    exact inv_normalByte (inv_putSync (by decide) (inv_append 0x00 (inv_append 0xFF hi)))

/-- Settles O48: a step waits, resets, hands the record to the Sink, or runs a byte row. -/
theorem stepKeepsTheInvariant : Obligations.StepKeepsTheInvariant := by
  intro s t hi h
  obtain ⟨_, rfl⟩ | ⟨i, u, hf, h⟩ := step_next_cases h
  · exact inv_beginStep hi
  · obtain ⟨_, ⟨_, rfl, rfl⟩ | ⟨_, _, _, rfl, rfl⟩ | ⟨_, _, _, b, bs, _, hd, rfl⟩⟩ := fetch_run_cases hf
    · obtain ⟨_, rfl⟩ := execReset_next h
      exact inv_wipe _
    · obtain ⟨_, _, rfl⟩ := execSinkTake_next h
      exact inv_takeRecord (inv_beginStep hi)
    · exact inv_exec_of_decodeByte hd h (inv_putSource bs (inv_beginStep hi))

/-- Settles O47: after reset the buffer is empty and the slot is free. -/
theorem resetStateMeetsTheInvariant : Obligations.ResetStateMeetsTheInvariant :=
  fun _ => ⟨Nat.zero_le _, nofun, nofun, List.length_replicate, rfl, nofun⟩
end Sys2Proof.Machine

/-! The configuration, the two handshake rows and the stalls of 10_state.md R31 to R35, and the fault of R21. -/
namespace Sys2Proof.Machine

variable {s t : State} {b : Byte} {bs : List Byte}

/-! ### The configuration is not written -/

theorem processFrame_cfg (h : processFrame s = .next t) : t.cfg = s.cfg := by
  obtain ⟨e, _, rfl⟩ | ⟨k, ws, e, _, rfl⟩ := processFrame_cases h <;> rfl

theorem breakFrame_cfg (h : breakFrame s = .next t) : t.cfg = s.cfg := by
  obtain ⟨e, _, _, rfl⟩ | ⟨k, ws, e, _, rfl⟩ := breakFrame_cases h <;> rfl

/-- No operation writes the configuration (R31). -/
theorem exec_cfg {i : Instr} (h : exec i s = .next t) : t.cfg = s.cfg := by
  cases i <;> simp only [exec] at h
  case syncNFf => obtain ⟨_, _, _, rfl⟩ := execSyncNFf_next h; rfl
  case syncNLit => obtain ⟨_, _, _, rfl⟩ := execSyncNLit_next h; simp
  case syncF00 => obtain ⟨_, _, _, rfl⟩ := execSyncF00_next h; rfl
  case syncFLit => obtain ⟨_, _, _, rfl⟩ := execSyncFLit_next h; simp
  case syncFzBrk => obtain ⟨_, _, _, h⟩ := execSyncFzBrk_next h; simpa using breakFrame_cfg h
  case syncFzLit => obtain ⟨_, _, _, rfl⟩ := execSyncFzLit_next h; simp
  case brk => obtain ⟨_, _, h⟩ := execBrk_next h; exact breakFrame_cfg h
  case processFrame => obtain ⟨_, _, h⟩ := execProcessFrame_next h; exact processFrame_cfg h
  case destuff => obtain ⟨_, rfl⟩ := execDestuff_next h; rfl
  case crcCheck => obtain ⟨_, ⟨_, rfl⟩ | ⟨_, rfl⟩⟩ := execCrcCheck_next h <;> rfl
  case frameFast => obtain ⟨_, _, _, rfl⟩ := execFrameFast_next h; rfl
  case frameSlow | frameDhw | frameRoom => obtain ⟨_, _, _, rfl⟩ := runDecoder_next h; rfl
  case frameUnregistered | decodePrecond => obtain ⟨_, _, rfl⟩ := runDiscardRow_next h; rfl
  case efficiency => obtain ⟨_, rfl⟩ := execEfficiency_next h; rfl
  case efficiencyDomainError => obtain ⟨_, _, rfl⟩ := execEfficiencyDomainError_next h; rfl
  case sinkTake => obtain ⟨_, _, rfl⟩ := execSinkTake_next h; rfl
  case reset => obtain ⟨_, rfl⟩ := execReset_next h; rfl

/-- An operation starts in a state with the step's configuration. -/
theorem fetch_run_cfg {i : Instr} (h : fetch s = .run i t) : t.cfg = s.cfg := by
  obtain ⟨_, ⟨_, _, rfl⟩ | ⟨_, _, _, _, rfl⟩ | ⟨_, _, _, _, _, _, _, rfl⟩⟩ := fetch_run_cases h <;> rfl

/-- Settles O52: no operation writes the configuration, and neither does the choice of one. -/
theorem configurationIsNeverWritten : Obligations.ConfigurationIsNeverWritten := by
  refine ⟨fun _ _ _ => exec_cfg, fun s t h => ?_⟩
  obtain ⟨_, rfl⟩ | ⟨i, u, hf, h⟩ := step_next_cases h
  · rfl
  · exact (exec_cfg h).trans (fetch_run_cfg hf)

/-! ### A waiting record stalls the machine -/

/-- The levels of a step are those of the plan, or the quiet ones past its end. -/
theorem driveNow_mem_or_quiet (s : State) : driveNow s ∈ s.drive ∨ driveNow s = Drive.quiet := by
  unfold driveNow
  cases s.drive with
  | nil => exact .inr rfl
  | cons d ds => exact .inl List.mem_cons_self

/-- A step in which a record waits and is neither accepted nor reset only uses up its levels (R33). -/
theorem step_of_stalled (hw : cfgWf s.cfg = true) (hp : s.pendValid = true) (hr : (driveNow s).rst = false)
    (hy : (driveNow s).recReady = false) : step s = .next s.beginStep :=
  step_of_fetch_idle ((fetch_of_noHandshake hw hr (.inr hy)).trans (fetchByte_of_pending hp))

/-- Settles O43, by induction on the number of steps: each leaves all but the plan and the event port, and the rest of the plan
has no reset and no acceptance either. -/
theorem stalledSinkStallsTheSource : Obligations.StalledSinkStallsTheSource := by
  intro n
  induction n with
  | zero => exact fun s _ hp _ => ⟨s, rfl, rfl, hp, rfl, rfl, rfl, rfl, rfl, rfl, rfl⟩
  | succ n ih =>
    intro s hw hp hd
    have hnow : (driveNow s).rst = false ∧ (driveNow s).recReady = false := by
      obtain h | h := driveNow_mem_or_quiet s
      · exact hd _ h
      · rw [h]; exact ⟨rfl, rfl⟩
    rw [run_succ (step_of_stalled hw hp hnow.1 hnow.2)]
    exact ih s.beginStep hw hp fun d h => hd d (List.mem_of_mem_tail h)

/-! ### SINK_TAKE and RESET -/

/-- Settles O44: with a record waiting the row's guards let it through. -/
theorem sinkTakesTheRecord : Obligations.SinkTakesTheRecord := by
  intro s hw hp
  calc exec .sinkTake s
    _ = guardCfg s fun s => if s.pendValid then .next s.takeRecord else .refused .notEnabled := rfl
    _ = if s.pendValid then .next s.takeRecord else .refused .notEnabled := guardCfg_of_wf hw _
    _ = .next s.takeRecord := if_pos hp

/-- Settles O45: the row's answer is `State.wipe`. -/
theorem resetRowRestoresTheResetValues : Obligations.ResetRowRestoresTheResetValues :=
  fun s hw => ⟨s.wipe, guardCfg_of_wf hw fun s => .next s.wipe, by simp, rfl⟩

/-! ### The reserved synchronizer state -/

theorem step_of_fetch_fault {r : Fault} (h : fetch s = .fault r) : step s = .fault r := by simp only [step, h]

/-- In the reserved synchronizer state the decode map has no row for an offered byte (R21). -/
theorem fetchByte_of_reserved (hr : (driveNow s).rst = false) (hp : s.pendValid = false) (hv : (driveNow s).inValid = true)
    (hs : s.source = b :: bs) (hsy : s.sync = .reserved) : fetchByte s = .fault .unreachableSyncState := by
  simp [fetchByte, inReady, inOffer, hr, hp, hv, hs, hsy, decodeByte]

/-- Settles O54: the byte input is reached, and it faults. -/
theorem reservedSyncValueFaults : Obligations.ReservedSyncValueFaults :=
  fun _ _ _ hw hsy hp hr hv hs =>
    step_of_fetch_fault ((fetch_of_noHandshake hw hr (.inl hp)).trans (fetchByte_of_reserved hr hp hv hs hsy))

end Sys2Proof.Machine

/-! The stage rows of the frame pipeline (20_memory.md R41, R46): what a decoder row writes, that it may run twice, and the fault of
a frame read out of range. -/
namespace Sys2Proof.Machine

variable {s t : State} {c : Cfg} {f : List Byte} {k : Kind}

/-! ### The decoder rows, for any kind -/

/-- FRAME_FAST fills the transients with the temperature and the efficiency of the frame's fields, or none if it has no such fields.
Which, the frame alone decides. -/
theorem fastWork_cases (c : Cfg) (f : List Byte) :
    (∀ w : Work, w.frame = f → fastWork c w = w) ∨
    (∃ v : FastValues, ∀ w : Work, w.frame = f → fastWork c w =
      { w with temp := v.w6, eff := signedWord (efficiency c v.w6).1, effError := (efficiency c v.w6).2 }) := by
  match hp : precond c .fast f, hv : fastValues c f with
  | some true, some v => exact .inr ⟨v, fun w hw => by simp only [fastWork, hw, hp, hv]⟩
  | some true, none => exact .inl fun w hw => by simp only [fastWork, hw, hp, hv]
  | some false, _ => exact .inl fun w hw => by simp only [fastWork, hw, hp]
  | none, _ => exact .inl fun w hw => by simp only [fastWork, hw, hp]

/-- The transients after a decoder row with the answer `r`: FRAME_FAST alone fills more than the record (log entry 5). -/
def decodedWork (c : Cfg) (k : Kind) (w : Work) (r : Decoded) : Work :=
  match k with
  | .fast => { fastWork c w with result := r }
  | .slow | .dhw | .room => { w with result := r }

@[simp] theorem decodedWork_frame (c : Cfg) (k : Kind) (w : Work) (r : Decoded) : (decodedWork c k w r).frame = w.frame := by
  cases k
  case fast => exact fastWork_frame c w
  case slow | dhw | room => rfl

theorem decodedWork_idempotent (c : Cfg) (k : Kind) (w : Work) (r : Decoded) :
    decodedWork c k (decodedWork c k w r) r = decodedWork c k w r := by
  cases k
  case fast =>
    simp only [decodedWork]
    obtain h | ⟨v, h⟩ := fastWork_cases c w.frame <;> simp only [h]
  case slow | dhw | room => rfl

theorem runDecoder_of_decodes {r : Decoded} (hw : cfgWf s.cfg = true) (hr : decodeKind s.cfg k s.work.frame = some r) :
    runDecoder k s = .next (s.putWork { s.work with result := r }) := by
  rw [runDecoder, guardCfg_of_wf hw, hr]

theorem exec_kindRow_of_decodes {r : Decoded} (hw : cfgWf s.cfg = true) (hr : decodeKind s.cfg k s.work.frame = some r) :
    exec (kindRow k) s = .next (s.putWork (decodedWork s.cfg k s.work r)) := by
  cases k
  case fast => exact runDecoder_of_decodes (s := s.putWork (fastWork s.cfg s.work)) hw (by simpa using hr)
  case slow | dhw | room => exact runDecoder_of_decodes hw hr

theorem exec_kindRow_next (h : exec (kindRow k) s = .next t) :
    cfgWf s.cfg = true ∧ ∃ r, decodeKind s.cfg k s.work.frame = some r ∧ t = s.putWork (decodedWork s.cfg k s.work r) := by
  cases k
  case fast => exact execFrameFast_next h
  case slow | dhw | room => exact runDecoder_next h

/-- A decoder row leaves the frame it decodes (R46). -/
theorem exec_kindRow_frame (h : exec (kindRow k) s = .next t) : t.work.frame = s.work.frame := by
  obtain ⟨_, r, _, rfl⟩ := exec_kindRow_next h
  exact decodedWork_frame s.cfg k s.work r

/-- A decoder row reads the frame, which it leaves, so it decodes to the same answer again. -/
theorem exec_kindRow_again (h : exec (kindRow k) s = .next t) : exec (kindRow k) t = .next t := by
  obtain ⟨hw, r, hr, rfl⟩ := exec_kindRow_next h
  let u := s.putWork (decodedWork s.cfg k s.work r)
  calc exec (kindRow k) u
    _ = .next (u.putWork (decodedWork s.cfg k (decodedWork s.cfg k s.work r) r)) :=
      exec_kindRow_of_decodes hw (by simpa [u] using hr)
    _ = .next u := by rw [decodedWork_idempotent]; rfl

/-- A decoder row writes the transients alone (R160, R170, R175, R178). -/
theorem exec_kindRow_writes_work (h : exec (kindRow k) s = .next t) : t = s.putWork t.work := by
  obtain ⟨_, _, _, rfl⟩ := exec_kindRow_next h
  rfl

/-- Settles O41: each row's answer is an update of `work`, and a decoder reads of `work` only the frame, which it leaves (the
field `work` is the model's form, log entry 5). -/
theorem stageRowsWriteOnlyTransients : Obligations.StageRowsWriteOnlyTransients := by
  refine ⟨fun s t i hi h => ?frame, fun s t k h => ⟨exec_kindRow_frame h, exec_kindRow_again h⟩⟩
  case frame =>
    simp only [List.mem_cons, List.not_mem_nil, or_false] at hi
    obtain rfl | rfl | rfl | rfl | rfl | rfl | rfl := hi
    · obtain ⟨_, rfl⟩ := execDestuff_next h; rfl
    · exact exec_kindRow_writes_work (k := .fast) h
    · exact exec_kindRow_writes_work (k := .slow) h
    · exact exec_kindRow_writes_work (k := .dhw) h
    · exact exec_kindRow_writes_work (k := .room) h
    · obtain ⟨_, rfl⟩ := execEfficiency_next h; rfl
    · obtain ⟨_, _, rfl⟩ := execEfficiencyDomainError_next h; rfl

/-! ### Frame reads out of range -/

/-- A frame of fewer than three bytes has no type byte (R41). -/
theorem frameRead_two_of_short (h : f.length < 3) : frameRead f 2 = none := List.getElem?_eq_none (by omega)

theorem precond_of_short (h : f.length < 3) (k : Kind) : precond c k f = none := by
  rw [precond, frameRead_two_of_short h]

/-- Every decoder reads the type byte first. -/
theorem decodeKind_of_short (h : f.length < 3) (k : Kind) : decodeKind c k f = none := by
  cases k <;> simp only [decodeKind, decodeFast, decodeSlow, decodeDhw, decodeRoom, precond_of_short h]

theorem runDecoder_of_short (hw : cfgWf s.cfg = true) (h : s.work.frame.length < 3) (k : Kind) :
    runDecoder k s = .fault .frameReadOutOfRange := by
  rw [runDecoder, guardCfg_of_wf hw, decodeKind_of_short h]

theorem exec_kindRow_of_short (hw : cfgWf s.cfg = true) (h : s.work.frame.length < 3) (k : Kind) :
    exec (kindRow k) s = .fault .frameReadOutOfRange := by
  cases k
  case fast => exact runDecoder_of_short (s := s.putWork (fastWork s.cfg s.work)) hw (by simpa using h) .fast
  case slow | dhw | room => exact runDecoder_of_short hw h _

theorem runDiscardRow_of_short (hw : cfgWf s.cfg = true) (h : s.work.frame.length < 3) (i : Instr) (e : Event) :
    runDiscardRow i e s = .fault .frameReadOutOfRange := by
  have hrow : selectedFrameRow s = none := by rw [selectedFrameRow, frameRead_two_of_short h]
  rw [runDiscardRow, guardCfg_of_wf hw, hrow]

theorem execCrcCheck_of_empty (hw : cfgWf s.cfg = true) (h : s.work.frame = []) :
    execCrcCheck s = .fault .frameReadOutOfRange := by
  have hcrc : crcAccepts s.work.frame = none := by rw [h]; rfl
  rw [execCrcCheck, guardCfg_of_wf hw, hcrc]

/-- Settles O55: CRC_CHECK finds no last byte, and the `frame_type` rows find no type byte. -/
theorem outOfRangeReadFaults : Obligations.OutOfRangeReadFaults :=
  fun _ hw => ⟨execCrcCheck_of_empty hw, fun h =>
    ⟨exec_kindRow_of_short hw h, runDiscardRow_of_short hw h _ _, runDiscardRow_of_short hw h _ _⟩⟩

end Sys2Proof.Machine

/-! The selectors of 30_encoding.md R61, R65 and R153: each row's code selects the row, and every byte selects one. -/
namespace Sys2Proof.Machine

variable {c : Cfg} {t b : Byte} {k : Kind} {sy : Sync} {i : Instr}

/-! ### What a well-formed configuration says of the type codes -/

/-- The conditions of R6, by their names in the model. -/
theorem cfgWf_parts (hw : cfgWf c = true) :
    typesOk c = true ∧ lengthsOk c = true ∧ fastLayoutOk c.layout.fast = true ∧ slowLayoutOk c.lenSlow c.layout.slow = true ∧
      dhwLayoutOk c.lenDhw c.layout.dhw = true ∧ roomLayoutOk c.layout.room = true ∧ effTableOk c.effTable = true :=
  of_decide_eq_true hw

/-- The type codes are pairwise distinct (R6). -/
theorem typeCodes_distinct (hw : cfgWf c = true) :
    c.typeFast ≠ c.typeSlow ∧ c.typeFast ≠ c.typeDhw ∧ c.typeFast ≠ typeRoom ∧ c.typeSlow ≠ c.typeDhw ∧
      c.typeSlow ≠ typeRoom ∧ c.typeDhw ≠ typeRoom :=
  of_decide_eq_true (cfgWf_parts hw).1

/-! ### The registry -/

/-- Under distinct type codes the registry answers each kind on its own type code (R153). -/
theorem registry_typeOf (hw : cfgWf c = true) (k : Kind) : registry c (c.typeOf k) = some k := by
  obtain ⟨hfs, hfd, hfr, hsd, hsr, hdr⟩ := typeCodes_distinct hw
  cases k with
  | fast => exact if_pos rfl
  | slow => exact (if_neg hfs.symm).trans (if_pos rfl)
  | dhw => exact (if_neg hfd.symm).trans ((if_neg hsd.symm).trans (if_pos rfl))
  | room => exact (if_neg hfr.symm).trans ((if_neg hsr.symm).trans ((if_neg hdr.symm).trans (if_pos rfl)))

/-- The registry answers a kind on no other byte than the kind's type code. -/
theorem eq_typeOf_of_registry (h : registry c t = some k) : t = c.typeOf k := by
  unfold registry at h
  split_ifs at h with hf hs hd hr <;> cases h
  · exact hf
  · exact hs
  · exact hd
  · exact hr

theorem registry_eq_none_iff :
    registry c t = none ↔ t ≠ c.typeFast ∧ t ≠ c.typeSlow ∧ t ≠ c.typeDhw ∧ t ≠ typeRoom := by
  unfold registry
  split_ifs <;> simp_all

theorem typeOf_injective (hw : cfgWf c = true) : Function.Injective c.typeOf := fun k k' h =>
  Option.some.inj ((registry_typeOf hw k).symm.trans (h ▸ registry_typeOf hw k'))

/-! ### A byte that is no type code -/

/-- The four type codes do not fill the five byte values 0 to 4. -/
theorem exists_small_unregistered (c : Cfg) : ∃ b ∈ ([0, 1, 2, 3, 4] : List Byte), registry c b = none := by
  let codes : Finset Byte := {c.typeFast, c.typeSlow, c.typeDhw, typeRoom}
  let small : Finset Byte := {0, 1, 2, 3, 4}
  have hcard : codes.card < small.card := Nat.lt_of_le_of_lt Finset.card_le_four (by decide)
  obtain ⟨b, hb, hcodes⟩ := Finset.exists_mem_notMem_of_card_lt_card hcard
  exact ⟨b, by simpa [small] using hb, registry_eq_none_iff.mpr (by simpa [codes] using hcodes)⟩

theorem registry_unregisteredType (c : Cfg) : registry c (unregisteredType c) = none := by
  unfold unregisteredType
  cases hf : ([0, 1, 2, 3, 4] : List Byte).find? (fun b => (registry c b).isNone) with
  | some b => simpa using List.find?_some hf
  | none =>
    obtain ⟨b, hb, hn⟩ := exists_small_unregistered c
    exact absurd (by simp [hn]) (List.find?_eq_none.mp hf b hb)

/-! ### The `frame_type` rows -/

theorem decodeFrame_of_unregistered (h : registry c t = none) (n : Nat) : decodeFrame c t n = .frameUnregistered := by
  rw [decodeFrame, h]

/-- A frame of a kind's type selects the kind's decoder on the exact length alone (R65, R150). -/
theorem decodeFrame_typeOf (hw : cfgWf c = true) (k : Kind) (n : Nat) :
    decodeFrame c (c.typeOf k) n = if n = c.lenOf k then kindRow k else .decodePrecond := by
  rw [decodeFrame, registry_typeOf hw]

theorem decodeFrame_of_length (hw : cfgWf c = true) (k : Kind) : decodeFrame c (c.typeOf k) (c.lenOf k) = kindRow k := by
  rw [decodeFrame_typeOf hw, if_pos rfl]

theorem decodeFrame_of_length_ne {n : Nat} (hw : cfgWf c = true) (h : n ≠ c.lenOf k) :
    decodeFrame c (c.typeOf k) n = .decodePrecond := by
  rw [decodeFrame_typeOf hw, if_neg h]

/-! ### Round trips -/

/-- Settles O1, row by row: a literal's byte condition picks its branch of R61, a type code of the configuration picks its kind, and
the byte chosen for an unregistered frame is no type code. -/
theorem decodeEncodeRoundTrip : Obligations.DecodeEncodeRoundTrip := by
  intro c i hw hi
  cases i
  case syncNLit b => exact if_neg (bne_iff_ne.mp hi)
  case syncFLit b => exact if_neg (bne_iff_ne.mp hi)
  case syncFzLit b => exact if_neg (bne_iff_ne.mp hi)
  case frameFast => exact congrArg _ (decodeFrame_of_length hw .fast)
  case frameSlow => exact congrArg _ (decodeFrame_of_length hw .slow)
  case frameDhw => exact congrArg _ (decodeFrame_of_length hw .dhw)
  case frameRoom => exact congrArg _ (decodeFrame_of_length hw .room)
  case frameUnregistered => exact congrArg _ (decodeFrame_of_unregistered (registry_unregisteredType c) _)
  case decodePrecond => exact congrArg _ (decodeFrame_of_length_ne (k := .room) hw (Nat.succ_ne_self _))
  case syncNFf | syncF00 | syncFzBrk | brk | processFrame | destuff | crcCheck | efficiency | efficiencyDomainError | sinkTake |
      reset => rfl

/-- In a named state every byte selects a row (R60). -/
theorem exists_decodeByte (h : sy ≠ .reserved) (b : Byte) : ∃ i, decodeByte sy b = .ok i := by
  cases sy with
  | normal | sawFf | sawFf00 => simp only [decodeByte]; split <;> exact ⟨_, rfl⟩
  | reserved => exact absurd rfl h

/-- The row a byte selects is well-formed, and its code is the pair it was selected by (R61). -/
theorem encode_of_decodeByte (h : decodeByte sy b = .ok i) (c : Cfg) : i.wf = true ∧ encode c i = .byte sy b := by
  obtain ⟨rfl, rfl, rfl⟩ | ⟨rfl, hb, rfl⟩ | ⟨rfl, rfl, rfl⟩ | ⟨rfl, hb, rfl⟩ | ⟨rfl, rfl, rfl⟩ | ⟨rfl, hb, rfl⟩ :=
    decodeByte_ok_cases h
  · exact ⟨rfl, rfl⟩
  · exact ⟨bne_iff_ne.mpr hb, rfl⟩
  · exact ⟨rfl, rfl⟩
  · exact ⟨bne_iff_ne.mpr hb, rfl⟩
  · exact ⟨rfl, rfl⟩
  · exact ⟨bne_iff_ne.mpr hb, rfl⟩

/-- Settles O2: some row is selected, and its code is the pair. -/
theorem everyByteSelectsOneRow : Obligations.EveryByteSelectsOneRow := by
  intro c sy b hsy
  obtain ⟨i, hi⟩ := exists_decodeByte hsy b
  exact ⟨i, hi, encode_of_decodeByte hi c⟩

/-- Settles O3: eleven closed codes, looked up in the tables. -/
theorem specCodesDecode : Obligations.SpecCodesDecode := by
  unfold Obligations.SpecCodesDecode
  decide

/-- Settles O35, field by field of the header word. -/
theorem headerFieldsStandAtTheirBits : Obligations.HeaderFieldsStandAtTheirBits := fun tag known present value err n =>
  ⟨tagOf_header tag known present err value n, knownOf_header tag known present err value n,
    presentOf_header tag known present err value n, valueOf_header tag known present err value n,
    effErrorOf_header tag known present err value n, nwordsOf_header tag known present err value n,
    header_and_zeroMask tag known present err value n⟩

end Sys2Proof.Machine

/-! Frame reads and conversions (20_memory.md R41, R42, 43_dispatch_conversion.md R151 to R155): a field inside the frame converts
to the value of its kind. -/
namespace Sys2Proof.Machine
open Safety

variable {f : List Byte} {fld : Field} {len : Nat}

/-! ### Reading inside the frame -/

theorem frameRead_of_lt {i : Nat} (h : i < f.length) : frameRead f i = some (f.getD i 0) := by
  rw [frameRead, List.getElem?_eq_getElem h, List.getD_eq_getElem _ _ h]

/-- A read inside the frame answers the bytes at `o` to `o + k - 1`. -/
theorem frameReadN_of_le {k o : Nat} (h : o + k ≤ f.length) : frameReadN f o k = some ((f.drop o).take k) := by
  induction k generalizing o with
  | zero => rfl
  | succ k ih =>
    have ho : o < f.length := by omega
    have hrest : frameReadN f (o + 1) k = some ((f.drop (o + 1)).take k) := ih (by omega)
    simp only [frameReadN, frameRead, List.getElem?_eq_getElem ho, hrest, List.drop_eq_getElem_cons ho, List.take_succ_cons]

/-! ### The big-endian sum -/

theorem bytesValue_zero (f : List Byte) (o : Nat) : bytesValue f o 0 = 0 := rfl

/-- One more byte shifts the sum by one place. -/
theorem bytesValue_succ (f : List Byte) (o w : Nat) :
    bytesValue f o (w + 1) = bytesValue f o w * 256 + (f.getD (o + w) 0).toNat := by
  have hshift : ∀ i ∈ List.range w, (f.getD (o + i) 0).toNat * 256 ^ (w - i) =
      (f.getD (o + i) 0).toNat * 256 ^ (w - 1 - i) * 256 := fun i hi => by
    have hlt : i < w := List.mem_range.mp hi
    rw [show w - i = w - 1 - i + 1 by omega, pow_succ, Nat.mul_assoc]
  simp only [bytesValue, List.range_succ, List.map_append, List.sum_append, Nat.add_sub_cancel, List.map_congr_left hshift,
    List.sum_map_mul_right]
  simp

theorem bytesValue_lt (f : List Byte) (o w : Nat) : bytesValue f o w < 256 ^ w := by
  induction w with
  | zero => exact Nat.one_pos
  | succ w ih =>
    have hb : (f.getD (o + w) 0).toNat < 256 := BitVec.isLt _
    rw [bytesValue_succ, pow_succ]
    omega

/-- The accumulation of R151's loop over the bytes read is the sum by places. -/
theorem bigEndian_drop_take {w o : Nat} (h : o + w ≤ f.length) : bigEndian ((f.drop o).take w) = bytesValue f o w := by
  induction w with
  | zero => rfl
  | succ w ih =>
    have hw : o + w < f.length := by omega
    have hlast : (f.drop o)[w]? = some (f.getD (o + w) 0) := by
      rw [List.getElem?_drop]; exact frameRead_of_lt hw
    rw [bytesValue_succ, ← ih (by omega), List.take_add_one, hlast]
    exact List.foldl_concat _ _ _ _

/-- ToInt is the accumulation on the widths R151 admits. -/
theorem toInt_of_width {s : List Byte} (h1 : 1 ≤ s.length) (h3 : s.length ≤ 3) : toInt s = bigEndian s := by
  obtain h | h | h : s.length = 1 ∨ s.length = 2 ∨ s.length = 3 := by omega
  all_goals simp only [toInt, h]

theorem toInt_drop_take {w o : Nat} (h : o + w ≤ f.length) (h1 : 1 ≤ w) (h3 : w ≤ 3) :
    toInt ((f.drop o).take w) = bytesValue f o w := by
  have hlen : ((f.drop o).take w).length = w := by rw [List.length_take, List.length_drop]; omega
  rw [toInt_of_width (by omega) (by omega), bigEndian_drop_take h]

/-- Two characters as one code weigh like a big-endian pair (R154). -/
theorem toChars2_toNat (c0 c1 : Byte) : (toChars2 c0 c1).toNat = c0.toNat * 256 + c1.toNat := by
  rw [toChars2, BitVec.toNat_append, ← Nat.shiftLeft_add_eq_or_of_lt c1.isLt, Nat.shiftLeft_eq]

/-! ### Well-formed fields -/

/-- The conditions of R155, by their names in the model. -/
theorem fieldOk_bounds (h : fieldOk len fld = true) :
    4 ≤ fld.offset ∧ fld.offset + fld.width + 1 ≤ len ∧ 1 ≤ fld.width ∧ fld.width ≤ 3 ∧ fieldKindOk fld = true :=
  of_decide_eq_true h

theorem scale_le_of_fieldKindOk {k : Nat} (h : fieldKindOk fld = true) (hk : fld.kind = .scaled k) : k ≤ 100 := by
  rw [fieldKindOk, hk] at h
  exact (of_decide_eq_true h).2

theorem width_of_chars2 (h : fieldKindOk fld = true) (hk : fld.kind = .chars2) : fld.width = 2 := by
  rw [fieldKindOk, hk] at h
  exact beq_iff_eq.mp h

/-- A well-formed field of a frame of its length converts to its value, whatever its kind (R67). -/
theorem conv_of_fieldOk (h : fieldOk f.length fld = true) : conv f fld = some (fieldValue f fld) := by
  obtain ⟨-, hlen, h1, h3, hkind⟩ := fieldOk_bounds h
  have hread : frameReadN f fld.offset fld.width = some ((f.drop fld.offset).take fld.width) := frameReadN_of_le (by omega)
  have hint := toInt_drop_take (f := f) (o := fld.offset) (by omega) h1 h3
  unfold conv fieldValue
  cases hk : fld.kind with
  | int => simp only [hread, hint]
  | scaled k => simp only [hread, toScaled, hint]
  | chars2 =>
    have hw : fld.width = 2 := width_of_chars2 hkind hk
    have h0 : frameRead f fld.offset = some (f.getD fld.offset 0) := frameRead_of_lt (by omega)
    have h1 : frameRead f (fld.offset + 1) = some (f.getD (fld.offset + 1) 0) := frameRead_of_lt (by omega)
    simp only [h0, h1, toChars2_toNat, bytesValue_succ, bytesValue_zero, Nat.zero_mul, Nat.zero_add, Nat.add_zero]

/-- Settles O28: the bytes are read inside the frame, and each kind's conversion is the sum by places, scaled or not. -/
theorem conversionIsTheFieldValue : Obligations.ConversionIsTheFieldValue := fun _ _ => conv_of_fieldOk

/-- Three bytes times a scale of at most 100 stay below the sign bit (R75, R152). -/
theorem fieldValue_lt (h : fieldOk len fld = true) : fieldValue f fld < 2 ^ 31 := by
  obtain ⟨-, -, -, h3, hkind⟩ := fieldOk_bounds h
  have hbytes : bytesValue f fld.offset fld.width < 256 ^ 3 :=
    Nat.lt_of_lt_of_le (bytesValue_lt f fld.offset fld.width) (Nat.pow_le_pow_right (by decide) h3)
  unfold fieldValue
  cases hk : fld.kind with
  | int => exact Nat.lt_trans hbytes (by decide)
  | scaled k =>
    calc bytesValue f fld.offset fld.width * k
      _ ≤ 256 ^ 3 * 100 := Nat.mul_le_mul hbytes.le (scale_le_of_fieldKindOk hkind hk)
      _ < 2 ^ 31 := by decide
  | chars2 => exact Nat.lt_trans (bytesValue_lt f fld.offset 2) (by decide)

/-- Settles O29: a value below `2^31` is not cut by the word. -/
theorem fieldWordHoldsTheValue : Obligations.FieldWordHoldsTheValue := by
  intro f fld len h
  have hv : fieldValue f fld < 2 ^ 31 := fieldValue_lt h
  exact ⟨hv, (BitVec.toNat_ofNat _ _).trans (Nat.mod_eq_of_lt (by omega))⟩

end Sys2Proof.Machine

/-! The event of a break (60_exceptions.md R203): under a well-formed configuration every stage answers, and the stages in order give
the priority order. -/
namespace Sys2Proof.Machine
open Safety

variable {c : Cfg} {s : State} {f raw : List Byte} {k : Kind} {t : Byte}

/-! ### The destuffed frame and its bytes -/

/-- Destuffing leaves at least half the bytes (R121). -/
theorem length_le_two_mul_destuff (raw : List Byte) : raw.length ≤ 2 * (destuff raw).length := by
  induction raw using destuff.induct with
  | case1 => exact Nat.le_refl _
  | case2 x => exact Nat.le_succ 1
  | case3 x y r h ih =>
    rw [destuff, if_pos h]
    simp only [List.length_cons]
    omega
  | case4 x y r h ih =>
    rw [destuff, if_neg h]
    simp only [List.length_cons] at ih ⊢
    omega

/-- A raw candidate that passes the length filter leaves a frame with a type byte (R122). -/
theorem three_le_destuff (h : 5 ≤ raw.length) : 3 ≤ (destuff raw).length := by
  have := length_le_two_mul_destuff raw
  omega

/-- CRC_CHECK compares with the last byte, which a frame that is not empty has (R131). -/
theorem crcAccepts_of_pos (h : 0 < f.length) : crcAccepts f = some (crc f.dropLast == f.getLastD 0) := by
  have hlast : frameRead f (f.length - 1) = some (f.getLastD 0) := by
    rw [frameRead, ← List.getLast?_eq_getElem?, List.getLastD_eq_getLast?,
      List.getLast?_eq_some_getLast (List.ne_nil_of_length_pos h), Option.getD_some]
  rw [crcAccepts, hlast]

/-! ### The decoders -/

theorem precond_of_read (h : frameRead f 2 = some t) (k : Kind) :
    precond c k f = some (t == c.typeOf k && f.length == c.lenOf k) := by
  rw [precond, h]

theorem precond_of_length (h : frameRead f 2 = some (c.typeOf k)) (hl : f.length = c.lenOf k) :
    precond c k f = some true := by
  rw [precond_of_read h, beq_self_eq_true, beq_iff_eq.mpr hl]; rfl

theorem precond_of_length_ne (h : frameRead f 2 = some (c.typeOf k)) (hl : f.length ≠ c.lenOf k) :
    precond c k f = some false := by
  rw [precond_of_read h, beq_eq_false_iff_ne.mpr hl, Bool.and_false]

/-- A decoder on a frame of its type and another length answers the empty record (R150). -/
theorem decodeKind_of_length_ne (h : frameRead f 2 = some (c.typeOf k)) (hl : f.length ≠ c.lenOf k) :
    decodeKind c k f = some .empty := by
  have hp := precond_of_length_ne h hl
  cases k <;> simp only [decodeKind, decodeFast, decodeSlow, decodeDhw, decodeRoom, hp]

theorem conv_of_length {fld : Field} {len : Nat} (hl : f.length = len) (h : fieldOk len fld = true) :
    conv f fld = some (fieldValue f fld) :=
  conv_of_fieldOk (hl ▸ h)

theorem conv_of_plain {fld : Field} {len : Nat} (hl : f.length = len) (h : plainFieldOk len fld = true) :
    conv f fld = some (fieldValue f fld) :=
  conv_of_length hl (of_decide_eq_true h).1

/-- The reads of Decode_FAST on a frame of its length (R160). -/
theorem fastValues_of_length (hw : cfgWf c = true) (hl : f.length = lenFast) :
    fastValues c f = some
      { w1 := fieldValue f c.layout.fast.requestedFlowTemperature
        w2 := fieldValue f c.layout.fast.flowTemperature
        w3 := fieldValue f c.layout.fast.requestedBurnerPower
        w4 := fieldValue f c.layout.fast.actualBurnerPower
        w5 := fieldValue f c.layout.fast.boilerTemperature
        w6 := fieldValue f c.layout.fast.flowReturnTemperature
        w7 := fieldValue f c.layout.fast.ionisationCurrent
        w8 := fieldValue f c.layout.fast.pressure
        code := BitVec.ofNat 16 (fieldValue f c.layout.fast.statusCode)
        w10 := fieldValue f c.layout.fast.errorCode } := by
  obtain ⟨-, -, hfast, -⟩ := cfgWf_parts hw
  obtain ⟨h1, h2, -, h3, h4, h5, h6, -, h7, h8, h9, -, h10⟩ := of_decide_eq_true hfast
  simp only [fastValues, Option.bind_eq_bind, Option.bind_some, conv_of_length hl h9, conv_of_plain hl h1, conv_of_plain hl h2,
    conv_of_plain hl h3, conv_of_plain hl h4, conv_of_plain hl h5, conv_of_plain hl h6, conv_of_plain hl h7,
    conv_of_plain hl h8, conv_of_plain hl h10]

/-- The record of Decode_SLOW on a frame of its length (R170, R72). -/
theorem slowRecord_of_length (hw : cfgWf c = true) (hl : f.length = c.lenSlow) :
    slowRecord c f = some (.record
      [header 2 false false 0 false 6, fieldWord (fieldValue f c.layout.slow.burnerOutletTemperature),
        fieldWord (fieldValue f c.layout.slow.pumpDutyCycle), fieldWord (fieldValue f c.layout.slow.burnerStarts),
        fieldWord (fieldValue f c.layout.slow.burnerRuntime), fieldWord (fieldValue f c.layout.slow.heatingRuntime),
        signedWord (hotWaterRuntime (fieldValue f c.layout.slow.burnerRuntime)
          (fieldValue f c.layout.slow.heatingRuntime))] .decoded) := by
  obtain ⟨-, -, -, hslow, -⟩ := cfgWf_parts hw
  obtain ⟨h1, h2, h3, h4, -, h5, -⟩ := of_decide_eq_true hslow
  simp only [slowRecord, Option.bind_eq_bind, Option.bind_some, conv_of_plain hl h1, conv_of_plain hl h2, conv_of_plain hl h3,
    conv_of_length hl h4, conv_of_length hl h5]

/-- The record of Decode_DHW on a frame of its length (R175, R73). -/
theorem dhwRecord_of_length (hw : cfgWf c = true) (hl : f.length = c.lenDhw) :
    dhwRecord c f = some (.record
      [header 3 false false 0 false 3, fieldWord (fieldValue f c.layout.dhw.boilerTemperature),
        fieldWord (fieldValue f c.layout.dhw.hotWaterOutletTemperature),
        fieldWord (fieldValue f c.layout.dhw.hotWaterFlowRate)] .decoded) := by
  obtain ⟨-, -, -, -, hdhw, -⟩ := cfgWf_parts hw
  obtain ⟨h1, h2, h3⟩ := of_decide_eq_true hdhw
  simp only [dhwRecord, Option.bind_eq_bind, Option.bind_some, conv_of_plain hl h1, conv_of_plain hl h2, conv_of_plain hl h3]

/-- The record of Decode_ROOM on a frame of its length (R178, R74). -/
theorem roomRecord_of_length (hw : cfgWf c = true) (hl : f.length = lenRoom) :
    roomRecord c f = some (.record
      [header 4 false false 0 false 2, fieldWord (bytesValue f c.layout.room.setpoint.offset 1 * 50),
        fieldWord (bytesValue f c.layout.room.actual.offset 2 * 10)] .decoded) := by
  obtain ⟨-, -, -, -, -, hroom, -⟩ := cfgWf_parts hw
  obtain ⟨h1, hw1, -, h2, hw2, -⟩ := of_decide_eq_true hroom
  obtain ⟨-, hb1, -⟩ := fieldOk_bounds h1
  obtain ⟨-, hb2, -⟩ := fieldOk_bounds h2
  have hs : c.layout.room.setpoint.offset + 1 ≤ f.length := by omega
  have ha : c.layout.room.actual.offset + 2 ≤ f.length := by omega
  simp only [roomRecord, Option.bind_eq_bind, Option.bind_some, frameReadN_of_le hs, frameReadN_of_le ha, toScaled,
    toInt_drop_take hs (by decide) (by decide), toInt_drop_take ha (by decide) (by decide)]

/-- Every key of the domain has its entry in EFF_TABLE (R48, R180). -/
theorem effEntry_of_domain (hw : cfgWf c = true) {i : Nat} (h1 : 10 ≤ i) (h2 : i ≤ 100) : ∃ e, effEntry c i = some e := by
  obtain ⟨-, -, -, -, -, -, heff⟩ := cfgWf_parts hw
  obtain ⟨hlen, -⟩ := of_decide_eq_true heff
  exact ⟨_, (if_neg (by omega)).trans (List.getElem?_eq_getElem (by omega : i - 10 < c.effTable.length))⟩

/-- `eff_error` says exactly that the temperature is outside the domain (R181). -/
theorem efficiency_error (hw : cfgWf c = true) (temp : Nat) : (efficiency c temp).2 = effOutOfDomain temp := by
  cases hd : effOutOfDomain temp with
  | true => simp [efficiency, hd]
  | false =>
    have hbounds : 1000 ≤ temp ∧ temp < 10000 := by simpa [effOutOfDomain] using hd
    obtain ⟨lo, hlo⟩ := effEntry_of_domain hw (i := temp / 100) (by omega) (by omega)
    obtain ⟨hi, hhi⟩ := effEntry_of_domain hw (i := temp / 100 + 1) (by omega) (by omega)
    simp [efficiency, hd, hlo, hhi]

/-- The event of a record of a kind: the efficiency of a FAST frame may fail (R181). -/
def recordEvent (c : Cfg) (k : Kind) (f : List Byte) : Event :=
  if k = .fast ∧ effOutOfDomain (fieldValue f c.layout.fast.flowReturnTemperature) then .decodedEffError else .decoded

/-- A decoder on a frame of its type and length makes a record (R160, R170, R175, R178). -/
theorem decodeKind_of_length (hw : cfgWf c = true) (h : frameRead f 2 = some (c.typeOf k)) (hl : f.length = c.lenOf k) :
    ∃ ws, decodeKind c k f = some (.record ws (recordEvent c k f)) := by
  have hp := precond_of_length h hl
  cases k with
  | fast =>
    simp only [decodeKind, decodeFast, hp, fastValues_of_length hw hl, fastRecord, efficiency_error hw, recordEvent, true_and]
    exact ⟨_, rfl⟩
  | slow => exact ⟨_, by simp only [decodeKind, decodeSlow, hp]; exact slowRecord_of_length hw hl⟩
  | dhw => exact ⟨_, by simp only [decodeKind, decodeDhw, hp]; exact dhwRecord_of_length hw hl⟩
  | room => exact ⟨_, by simp only [decodeKind, decodeRoom, hp]; exact roomRecord_of_length hw hl⟩

/-! ### The priority order -/

theorem breakEvent_of_overflow (c : Cfg) (raw : List Byte) : breakEvent c true raw = .frameOverflow := rfl

theorem breakEvent_of_short (h : raw.length < 5) : breakEvent c false raw = .frameShort := if_pos h

theorem breakEvent_of_crc_ne (h : 5 ≤ raw.length) (hc : crc (destuff raw).dropLast ≠ (destuff raw).getLastD 0) :
    breakEvent c false raw = .crcMismatch :=
  (if_neg (Nat.not_lt.mpr h)).trans (if_pos hc)

/-- The priority order's length test, kind by kind, is the test of the frame's own kind. -/
theorem every_kind_length_ne_iff (hw : cfgWf c = true) (k : Kind) (n : Nat) :
    ((c.typeOf k = c.typeFast → n ≠ 30) ∧ (c.typeOf k = c.typeSlow → n ≠ c.lenSlow) ∧
      (c.typeOf k = c.typeDhw → n ≠ c.lenDhw) ∧ (c.typeOf k = 0x91 → n ≠ 19)) ↔ n ≠ c.lenOf k := by
  have hinj {k' : Kind} (he : c.typeOf k = c.typeOf k') (hn : n ≠ c.lenOf k) : n ≠ c.lenOf k' := typeOf_injective hw he ▸ hn
  constructor
  · rintro ⟨hfast, hslow, hdhw, hroom⟩
    cases k with
    | fast => exact hfast rfl
    | slow => exact hslow rfl
    | dhw => exact hdhw rfl
    | room => exact hroom rfl
  · exact fun hn => ⟨fun he => hinj (k' := .fast) he hn, fun he => hinj (k' := .slow) he hn,
      fun he => hinj (k' := .dhw) he hn, fun he => hinj (k' := .room) he hn⟩

section
variable (h : 5 ≤ raw.length) (hc : crc (destuff raw).dropLast = (destuff raw).getLastD 0)
include h hc

theorem breakEvent_of_unregistered (hr : registry c ((destuff raw).getD 2 0) = none) :
    breakEvent c false raw = .typeUnregistered :=
  (if_neg (Nat.not_lt.mpr h)).trans ((if_neg (not_not_intro hc)).trans (if_pos (registry_eq_none_iff.mp hr)))

/-- Behind the registry the kind of the frame decides (R150, R181). -/
theorem breakEvent_of_registered (hw : cfgWf c = true) (ht : (destuff raw).getD 2 0 = c.typeOf k) :
    breakEvent c false raw =
      if (destuff raw).length = c.lenOf k then recordEvent c k (destuff raw) else .decodePrecond := by
  have hreg : registry c ((destuff raw).getD 2 0) ≠ none := by rw [ht, registry_typeOf hw]; nofun
  have hlen := every_kind_length_ne_iff hw k (destuff raw).length
  have heff (v : Nat) : (c.typeOf k = c.typeFast ∧ (v < 1000 ∨ 10000 ≤ v)) ↔ (k = .fast ∧ effOutOfDomain v = true) :=
    and_congr ((typeOf_injective hw).eq_iff (b := .fast)) (by simp [effOutOfDomain])
  rw [← ht] at hlen heff
  rw [← ite_not]
  exact (if_neg (Nat.not_lt.mpr h)).trans ((if_neg (not_not_intro hc)).trans
    ((if_neg (mt registry_eq_none_iff.mpr hreg)).trans (if_congr hlen rfl (if_congr (heff _) rfl rfl))))

end

/-! ### The stages answer -/

/-- ProcessFrame answers a candidate that passed the length filter, with the event of the priority order (R140, R203). -/
theorem processFrame_event (hw : cfgWf s.cfg = true) (h : 5 ≤ s.work.raw.length) :
    ∃ t, processFrame s = .next t ∧ t.evt = some (breakEvent s.cfg false s.work.raw) := by
  have hlen : 3 ≤ (destuff s.work.raw).length := three_le_destuff h
  have hcrc := crcAccepts_of_pos (f := destuff s.work.raw) (by omega)
  have htype : frameRead (destuff s.work.raw) 2 = some ((destuff s.work.raw).getD 2 0) := frameRead_of_lt hlen
  by_cases hc : crc (destuff s.work.raw).dropLast = (destuff s.work.raw).getLastD 0
  · rw [beq_iff_eq.mpr hc] at hcrc
    cases hr : registry s.cfg ((destuff s.work.raw).getD 2 0) with
    | none =>
      refine ⟨discard .typeUnregistered s, by simp only [processFrame, hcrc, htype, hr], ?_⟩
      rw [breakEvent_of_unregistered h hc hr, discard_evt]
    | some k =>
      have ht := eq_typeOf_of_registry hr
      have hread := htype.trans (congrArg some ht)
      rw [breakEvent_of_registered h hc hw ht]
      by_cases hl : (destuff s.work.raw).length = s.cfg.lenOf k
      · obtain ⟨ws, hd⟩ := decodeKind_of_length hw hread hl
        rw [if_pos hl]
        exact ⟨deliver ws _ s, by simp only [processFrame, hcrc, htype, hr, hd], rfl⟩
      · have hd := decodeKind_of_length_ne hread hl
        rw [if_neg hl]
        exact ⟨discard .decodePrecond s, by simp only [processFrame, hcrc, htype, hr, hd], rfl⟩
  · rw [beq_eq_false_iff_ne.mpr hc] at hcrc
    refine ⟨discard .crcMismatch s, by simp only [processFrame, hcrc], ?_⟩
    rw [breakEvent_of_crc_ne h hc, discard_evt]

/-- Break answers with the event of the priority order (R105, R203). -/
theorem breakFrame_event (hw : cfgWf s.cfg = true) :
    ∃ t, breakFrame s = .next t ∧ t.evt = some (breakEvent s.cfg s.ovf (candidate s)) := by
  cases ho : s.ovf with
  | true => exact ⟨discard .frameOverflow s.startFrame, by simp only [breakFrame, ho, if_true], rfl⟩
  | false =>
    by_cases h : (candidate s).length < 5
    · rw [breakEvent_of_short h]
      exact ⟨discard .frameShort s.startFrame, by simp [breakFrame, ho, h], rfl⟩
    · have hstage : breakFrame s = processFrame (s.startFrame.putWork { Work.idle with raw := candidate s }) := by
        simp [breakFrame, ho, h]
      rw [hstage]
      exact processFrame_event (s := s.startFrame.putWork { Work.idle with raw := candidate s }) hw (Nat.not_lt.mp h)

/-- Break leaves the synchronizer's state and starts the next frame empty (R105). -/
theorem breakFrame_starts_frame {t : State} (h : breakFrame s = .next t) : t.sync = s.sync ∧ t.cnt = 0 ∧ t.ovf = false := by
  obtain ⟨e, _, _, rfl⟩ | ⟨k, ws, e, _, rfl⟩ := breakFrame_cases h <;> exact ⟨rfl, rfl, rfl⟩

end Sys2Proof.Machine

/-! Bytes taken one a step, and the same bytes taken under a plan of levels with waits (40_synchronizer.md R108, 10_state.md R33,
70_reset_and_hazards.md R227): what a run on quiet levels does, the run under the plan does as well. -/
namespace Sys2Proof.Machine
open Safety

variable {s t u : State} {b : Byte} {bs rest : List Byte} {i : Instr}

/-! ### A step that takes a byte -/

/-- The coming step takes the byte `b` and leaves the Byte Source with `bs`: no reset, an empty output slot, an offered byte. -/
structure Offered (s : State) (b : Byte) (bs : List Byte) : Prop where
  wf : cfgWf s.cfg = true
  free : s.pendValid = false
  noReset : (driveNow s).rst = false
  valid : (driveNow s).inValid = true
  source : s.source = b :: bs

theorem offered_of_quiet (hw : cfgWf s.cfg = true) (hp : s.pendValid = false) (hd : s.drive = []) (hs : s.source = b :: bs) :
    Offered s b bs := by
  have hnow : driveNow s = Drive.quiet := by rw [driveNow, hd, List.headD_nil]
  exact ⟨hw, hp, by rw [hnow]; rfl, by rw [hnow]; rfl, hs⟩

theorem step_of_offered (h : Offered s b bs) (hd : decodeByte s.sync b = .ok i) :
    step s = exec i (s.beginStep.putSource bs) :=
  step_of_fetch_run
    ((fetch_of_noHandshake h.wf h.noReset (.inl h.free)).trans (fetchByte_of_offer h.noReset h.free h.valid h.source hd))

/-! ### The rows a marker goes through -/

theorem exec_syncNFf_of_normal (hw : cfgWf s.cfg = true) (hp : s.pendValid = false) (hs : s.sync = .normal) :
    exec .syncNFf s = .next (s.putSync .sawFf) :=
  acceptByte_of_selected hw hp (by rw [hs]; rfl) fun s => .next (s.putSync .sawFf)

theorem exec_syncF00_of_sawFf (hw : cfgWf s.cfg = true) (hp : s.pendValid = false) (hs : s.sync = .sawFf) :
    exec .syncF00 s = .next (s.putSync .sawFf00) :=
  acceptByte_of_selected hw hp (by rw [hs]; rfl) fun s => .next (s.putSync .sawFf00)

theorem exec_syncFLit_of_sawFf (hw : cfgWf s.cfg = true) (hp : s.pendValid = false) (hs : s.sync = .sawFf) (hb : b ≠ 0x00) :
    exec (.syncFLit b) s = .next (normalByte b ((append 0xFF s).putSync .normal)) :=
  acceptByte_of_selected hw hp (by rw [hs]; exact if_neg hb) fun s => .next (normalByte b ((append 0xFF s).putSync .normal))

theorem exec_syncFzBrk_of_sawFf00 (hw : cfgWf s.cfg = true) (hp : s.pendValid = false) (hs : s.sync = .sawFf00) :
    exec .syncFzBrk s = breakFrame (s.putSync .normal) :=
  acceptByte_of_selected hw hp (by rw [hs]; rfl) fun s => breakFrame (s.putSync .normal)

/-- In NORMAL an offered FF is held (R100). -/
theorem step_of_normal_mark (h : Offered s 0xFF bs) (hs : s.sync = .normal) :
    step s = .next ((s.beginStep.putSource bs).putSync .sawFf) :=
  (step_of_offered h (by rw [hs]; rfl)).trans (exec_syncNFf_of_normal h.wf h.free hs)

/-- In SAW_FF an offered 00 is held (R101). -/
theorem step_of_sawFf_zero (h : Offered s 0x00 bs) (hs : s.sync = .sawFf) :
    step s = .next ((s.beginStep.putSource bs).putSync .sawFf00) :=
  (step_of_offered h (by rw [hs]; rfl)).trans (exec_syncF00_of_sawFf h.wf h.free hs)

/-- In SAW_FF any other offered byte makes the held FF data (R107). -/
theorem step_of_sawFf_literal (h : Offered s b bs) (hs : s.sync = .sawFf) (hb : b ≠ 0x00) :
    step s = .next (normalByte b ((append 0xFF (s.beginStep.putSource bs)).putSync .normal)) :=
  (step_of_offered h (by rw [hs]; exact if_neg hb)).trans (exec_syncFLit_of_sawFf h.wf h.free hs hb)

/-- In SAW_FF00 an offered 00 confirms the break (R103). -/
theorem step_of_sawFf00_zero (h : Offered s 0x00 bs) (hs : s.sync = .sawFf00) :
    step s = breakFrame ((s.beginStep.putSource bs).putSync .normal) :=
  (step_of_offered h (by rw [hs]; rfl)).trans (exec_syncFzBrk_of_sawFf00 h.wf h.free hs)

/-! ### The doubled mark on quiet levels -/

/-- With room, Append adds its byte to the candidate (R104). -/
theorem candidate_append_of_lt (hb : s.buf.length = s.cfg.maxRawLen) (h : s.cnt < s.cfg.maxRawLen) (x : Byte) :
    candidate (append x s) = candidate s ++ [x] := by
  have hc : s.cnt < s.buf.length := hb ▸ h
  rw [append_of_lt h, candidate, candidate, State.pushByte_buf, State.pushByte_cnt, List.take_add_one,
    List.take_set_of_le (Nat.le_refl _), List.getElem?_set_self hc, Option.toList_some]

/-- The event of a break after one more byte: the candidate with the byte, or an overflow where there is no room for it. -/
theorem breakEvent_append (hb : s.buf.length = s.cfg.maxRawLen) (x : Byte) :
    breakEvent s.cfg (append x s).ovf (candidate (append x s)) =
      if s.cnt < s.cfg.maxRawLen then breakEvent s.cfg s.ovf (candidate s ++ [x]) else .frameOverflow := by
  obtain ⟨h, e⟩ | ⟨h, e⟩ := append_cases s x
  · rw [if_pos h, candidate_append_of_lt hb h, e, State.pushByte_ovf]
  · rw [if_neg (Nat.not_lt.mpr h), e, State.markOverflow_ovf, breakEvent_of_overflow]

/-- Two marks from NORMAL: the second FF makes the first one data and is itself held (R100, R107). -/
theorem run_two_marks (hw : cfgWf s.cfg = true) (hs : s.sync = .normal) (hp : s.pendValid = false) (hd : s.drive = [])
    (hsrc : s.source = 0xFF :: 0xFF :: bs) :
    Host.Core.run Sys2Proof.core 2 s = .next ((append 0xFF (s.beginStep.putSource bs)).putSync .sawFf) := by
  have hd' : s.beginStep.drive = [] := by rw [State.beginStep_drive, hd, List.tail_nil]
  have hstart : s.beginStep.beginStep = s.beginStep := State.withPlan_of_drive (hd'.trans (congrArg List.tail hd').symm)
  have h1 := step_of_normal_mark (offered_of_quiet hw hp hd hsrc) hs
  have h2 := step_of_sawFf_literal (s := (s.beginStep.putSource (0xFF :: bs)).putSync .sawFf) (b := 0xFF)
    (offered_of_quiet hw hp hd' rfl) rfl (by decide)
  have hsecond : ((s.beginStep.putSource (0xFF :: bs)).putSync .sawFf).beginStep.putSource bs =
      (s.beginStep.putSource bs).putSync .sawFf := congrArg (fun u => (u.putSource bs).putSync .sawFf) hstart
  rw [hsecond, normalByte_mark, append_putSync] at h2
  rw [run_succ h1, run_succ h2]
  rfl

/-- Two zeros after a held mark confirm the break (R101, R103, R203). -/
theorem run_two_zeros (hw : cfgWf s.cfg = true) (hs : s.sync = .sawFf) (hp : s.pendValid = false) (hd : s.drive = [])
    (hsrc : s.source = 0x00 :: 0x00 :: rest) :
    ∃ t, Host.Core.run Sys2Proof.core 2 s = .next t ∧ t.sync = .normal ∧ t.cnt = 0 ∧ t.source = rest ∧
      t.evt = some (breakEvent s.cfg s.ovf (candidate s)) := by
  have hd' : s.beginStep.drive = [] := by rw [State.beginStep_drive, hd, List.tail_nil]
  have h1 := step_of_sawFf_zero (offered_of_quiet hw hp hd hsrc) hs
  have h2 := step_of_sawFf00_zero (s := (s.beginStep.putSource (0x00 :: rest)).putSync .sawFf00)
    (offered_of_quiet hw hp hd' rfl) rfl
  obtain ⟨t, ht, hevt⟩ := breakFrame_event
    (s := (((s.beginStep.putSource (0x00 :: rest)).putSync .sawFf00).beginStep.putSource rest).putSync .normal) hw
  obtain ⟨hsync, hcnt, -⟩ := breakFrame_starts_frame ht
  refine ⟨t, ?_, hsync, hcnt, breakFrame_source ht, hevt⟩
  rw [run_succ h1, run_succ (h2.trans ht)]
  rfl

/-- R63 on quiet levels, in any buffer: a data byte FF, or its overflow, and then a break. -/
theorem run_doubledMark (hw : cfgWf s.cfg = true) (hb : s.buf.length = s.cfg.maxRawLen) (hs : s.sync = .normal)
    (hp : s.pendValid = false) (hd : s.drive = []) (hsrc : s.source = 0xFF :: 0xFF :: 0x00 :: 0x00 :: rest) :
    ∃ t, Host.Core.run Sys2Proof.core 4 s = .next t ∧ t.sync = .normal ∧ t.cnt = 0 ∧ t.source = rest ∧
      t.evt = some (if s.cnt < s.cfg.maxRawLen then breakEvent s.cfg s.ovf (candidate s ++ [0xFF]) else .frameOverflow) := by
  obtain ⟨t, hrun, hsync, hcnt, hsource, hevt⟩ := run_two_zeros (rest := rest)
    (s := (append 0xFF (s.beginStep.putSource (0x00 :: 0x00 :: rest))).putSync .sawFf)
    (by simpa using hw) rfl (by simpa using hp) (by simp [hd]) (by simp)
  refine ⟨t, (run_append (run_two_marks hw hs hp hd hsrc) 2).trans hrun, hsync, hcnt, hsource, hevt.trans (congrArg some ?_)⟩
  rw [State.putSync_cfg, append_cfg]
  exact breakEvent_append (s := s.beginStep.putSource (0x00 :: 0x00 :: rest)) hb 0xFF

/-- Settles O19: the run of the doubled mark, with room for its FF. -/
theorem doubledMarkBeforeZerosIsABreak : Obligations.DoubledMarkBeforeZerosIsABreak := by
  intro s rest hw hb hroom hs hp hd hsrc
  obtain ⟨t, hrun, hsync, hcnt, hsource, hevt⟩ := run_doubledMark hw hb hs hp hd hsrc
  exact ⟨t, hrun, hsync, hcnt, hsource, hevt.trans (congrArg some (if_pos hroom))⟩

/-! ### What a step does to the plan and to the offered bytes -/

/-- An operation leaves the plan of levels. -/
theorem exec_drive (h : exec i s = .next t) : t.drive = s.drive := by
  have h' : exec i s = .next (t.withPlan s.drive) := exec_withPlan (plan := s.drive) h
  have ht : t = t.withPlan s.drive := Host.Outcome.next.inj (h.symm.trans h')
  have hdrive : t.drive = (t.withPlan s.drive).drive := congrArg State.drive ht
  exact hdrive

/-- A step uses up one entry of the plan (R227). -/
theorem step_drive (h : step s = .next t) : t.drive = s.drive.tail := by
  obtain ⟨_, rfl⟩ | ⟨i, v, hf, h⟩ := step_next_cases h
  · rfl
  · rw [exec_drive h]
    obtain ⟨_, ⟨_, _, rfl⟩ | ⟨_, _, _, _, rfl⟩ | ⟨_, _, _, _, _, _, _, rfl⟩⟩ := fetch_run_cases hf <;> rfl

/-- A step leaves the offered bytes or takes the first of them, by the row the decode map selects. -/
theorem step_source_cases (h : step s = .next t) :
    t.source = s.source ∨ ∃ b i, s.pendValid = false ∧ s.source = b :: t.source ∧ decodeByte s.sync b = .ok i ∧
      exec i (s.beginStep.putSource t.source) = .next t := by
  obtain ⟨_, rfl⟩ | ⟨i, v, hf, h⟩ := step_next_cases h
  · exact .inl rfl
  · have hv := exec_source h
    obtain ⟨_, ⟨_, _, rfl⟩ | ⟨_, _, _, _, rfl⟩ | ⟨_, hp, _, b, bs, hs, hd, rfl⟩⟩ := fetch_run_cases hf
    · exact .inl hv
    · exact .inl hv
    · have hbs : t.source = bs := hv
      subst hbs
      exact .inr ⟨b, i, hp, hs, hd, h⟩

theorem step_source_length_le (h : step s = .next t) : s.source.length ≤ t.source.length + 1 := by
  obtain hs | ⟨b, i, _, hs, _, _⟩ := step_source_cases h
  · rw [hs]; exact Nat.le_succ _
  · rw [hs]; exact Nat.le_refl _

/-- A run takes at most one byte a step. -/
theorem source_length_le_run {n : Nat} (h : Host.Core.run Sys2Proof.core n s = .next t) :
    s.source.length ≤ t.source.length + n := by
  induction n generalizing s with
  | zero => cases h; exact Nat.le_refl _
  | succ n ih =>
    obtain ⟨v, hv, h⟩ := run_succ_next h
    have hstep := step_source_length_le hv
    have hrun := ih h
    omega

/-! ### Runs under a plan with waits -/

theorem offerSteps_append (p q : List Drive) : offerSteps (p ++ q) = offerSteps p + offerSteps q := List.countP_append

/-- An operation on an offered byte that completes does so at the plan's first offer, after any waits. -/
theorem run_to_offer (hw : cfgWf s.cfg = true) (hp : s.pendValid = false) (hr : ∀ d ∈ s.drive, d.rst = false)
    (hn : 1 ≤ offerSteps s.drive) (hs : s.source = b :: bs) (hd : decodeByte s.sync b = .ok i)
    (he : exec i (s.beginStep.putSource bs) = .next u) :
    ∃ k ≤ s.drive.length, offerSteps (s.drive.take k) = 1 ∧
      Host.Core.run Sys2Proof.core k s = .next (u.withPlan (s.drive.drop k)) := by
  induction hplan : s.drive generalizing s u with
  | nil => rw [hplan] at hn; exact absurd hn (by decide)
  | cons d ds ih =>
    have hnow : driveNow s = d := by rw [driveNow, hplan, List.headD_cons]
    have hrst : d.rst = false := hr d (by rw [hplan]; exact List.mem_cons_self)
    cases hv : d.inValid with
    | true =>
      have hoff : Offered s b bs := ⟨hw, hp, by rw [hnow, hrst], by rw [hnow, hv], hs⟩
      have hstep : step s = .next u := (step_of_offered hoff hd).trans he
      have hu : u.drive = ds := (step_drive hstep).trans (by rw [hplan]; rfl)
      refine ⟨1, by simp, by simp [offerSteps, hv], ?_⟩
      rw [run_succ hstep, List.drop_one, List.tail_cons, State.withPlan_of_drive hu]
      rfl
    | false =>
      have hstep : step s = .next s.beginStep := step_of_fetch_idle
        ((fetch_of_noHandshake hw (by rw [hnow, hrst]) (.inl hp)).trans (fetchByte_of_noOffer (.inl (by rw [hnow, hv]))))
      have htail : s.beginStep.drive = ds := by rw [State.beginStep_drive, hplan]; rfl
      have hn' : 1 ≤ offerSteps ds := by simpa [hplan, offerSteps, hv] using hn
      obtain ⟨k, hk, hoffers, hrun⟩ := ih (s := s.beginStep) hw hp
        (fun d' hd' => hr d' (List.mem_of_mem_tail hd')) (htail ▸ hn') hs hd (exec_withPlan (plan := s.drive.tail.tail) he) htail
      refine ⟨k + 1, Nat.succ_le_succ hk, by simpa [offerSteps, hv] using hoffers, ?_⟩
      rw [run_succ hstep, hrun]
      rfl

/-- A step on quiet levels that takes a byte happens at the plan's first offer. -/
theorem quiet_step_through_waits (hw : cfgWf s.cfg = true) (hr : ∀ d ∈ s.drive, d.rst = false)
    (hn : 1 ≤ offerSteps s.drive) (hu : step (s.withPlan []) = .next u) (hsrc : u.source ≠ s.source) :
    ∃ k ≤ s.drive.length, offerSteps (s.drive.take k) = 1 ∧
      Host.Core.run Sys2Proof.core k s = .next (u.withPlan (s.drive.drop k)) := by
  obtain h | ⟨b, i, hp, hs, hd, he⟩ := step_source_cases hu
  · exact absurd h hsrc
  · exact run_to_offer (u := u.withPlan s.drive.tail) hw hp hr hn hs hd (exec_withPlan (plan := s.drive.tail) he)

/-- A run on quiet levels in which every step takes a byte happens under every plan without reset that offers as many bytes: the
waits between them change nothing (R33, R227). -/
theorem run_through_waits {n : Nat} (hw : cfgWf s.cfg = true) (hr : ∀ d ∈ s.drive, d.rst = false)
    (hn : n ≤ offerSteps s.drive) (hsrc : t.source.length + n = s.source.length)
    (h : Host.Core.run Sys2Proof.core n (s.withPlan []) = .next t) :
    ∃ k ≤ s.drive.length, offerSteps (s.drive.take k) = n ∧
      Host.Core.run Sys2Proof.core k s = .next (t.withPlan (s.drive.drop k)) := by
  induction n generalizing s with
  | zero => cases h; exact ⟨0, Nat.zero_le _, rfl, rfl⟩
  | succ n ih =>
    obtain ⟨u, hu, h⟩ := run_succ_next h
    have hstep : s.source.length ≤ u.source.length + 1 := step_source_length_le (s := s.withPlan []) hu
    have hrest := source_length_le_run h
    have htakes : u.source ≠ s.source := fun hs => by rw [hs] at hrest; omega
    obtain ⟨k, hk, hoffers, hrun⟩ := quiet_step_through_waits hw hr (by omega) hu htakes
    have hcfg : u.cfg = s.cfg := configurationIsNeverWritten.2 (s.withPlan []) u hu
    have hquiet : u.withPlan [] = u := State.withPlan_of_drive (step_drive hu)
    have hsplit : offerSteps (s.drive.take k) + offerSteps (s.drive.drop k) = offerSteps s.drive := by
      rw [← offerSteps_append, List.take_append_drop]
    have hleft : n ≤ offerSteps (s.drive.drop k) := by omega
    have hsrc' : t.source.length + n = u.source.length := by omega
    obtain ⟨m, hm, hoffers', hrun'⟩ := ih (s := u.withPlan (s.drive.drop k)) (hcfg ▸ hw)
      (fun d hd => hr d (List.mem_of_mem_drop hd)) hleft hsrc' (hquiet.symm ▸ h)
    rw [State.withPlan_drive] at hm hoffers' hrun'
    rw [List.length_drop] at hm
    refine ⟨k + m, by omega, ?offers, ?run⟩
    case offers => rw [List.take_add, offerSteps_append, hoffers, hoffers', Nat.add_comm]
    case run => rw [run_append hrun, hrun', List.drop_drop]

/-- Settles O60: the run of the doubled mark on quiet levels, carried through the plan's waits. -/
theorem doubledMarkIsABreakInAnyBuffer : Obligations.DoubledMarkIsABreakInAnyBuffer := by
  intro s rest hw hb hs hp hr hn hsrc
  obtain ⟨t, hrun, hsync, hcnt, hsource, hevt⟩ := run_doubledMark (s := s.withPlan []) hw hb hs hp rfl hsrc
  obtain ⟨k, hk, hoffers, hrun'⟩ := run_through_waits hw hr hn (by rw [hsource, hsrc]; rfl) hrun
  exact ⟨k, _, hk, hoffers, hrun', hsync, hcnt, hsource, hevt⟩

end Sys2Proof.Machine

/-! The byte rows of 40_synchronizer.md, one by one: what each appends and holds (R100 to R102, R104, R106, R107), and the break it
may confirm (R103, R105). -/
namespace Sys2Proof.Machine

variable {s t : State} {b : Byte}

/-! ### Append and the rows without a break -/

/-- Settles O6: the two branches of Append, and the candidate after each. -/
theorem appendAddsOneByteOrMarksOverflow : Obligations.AppendAddsOneByteOrMarksOverflow :=
  fun _ x hb => ⟨fun h => ⟨append_of_lt h, candidate_append_of_lt hb h x⟩,
    fun h => ⟨append_of_le h, by rw [append_of_le h]; rfl⟩⟩

theorem exec_syncNLit_of_normal (hw : cfgWf s.cfg = true) (hp : s.pendValid = false) (hs : s.sync = .normal) (hb : b ≠ 0xFF) :
    exec (.syncNLit b) s = .next (append b s) :=
  acceptByte_of_selected hw hp (by rw [hs]; exact if_neg hb) fun s => .next (append b s)

theorem exec_syncFzLit_of_sawFf00 (hw : cfgWf s.cfg = true) (hp : s.pendValid = false) (hs : s.sync = .sawFf00)
    (hb : b ≠ 0x00) :
    exec (.syncFzLit b) s = .next (normalByte b ((append 0x00 (append 0xFF s)).putSync .normal)) :=
  acceptByte_of_selected hw hp (by rw [hs]; exact if_neg hb) fun s =>
    .next (normalByte b ((append 0x00 (append 0xFF s)).putSync .normal))

/-- Settles O7: the row's answer is an update of `sync`. -/
theorem normalMarkIsHeld : Obligations.NormalMarkIsHeld := fun _ => exec_syncNFf_of_normal

/-- Settles O8: the row's answer is Append, written out. -/
theorem normalLiteralIsAppended : Obligations.NormalLiteralIsAppended := fun _ _ => exec_syncNLit_of_normal

/-- Settles O9: the row's answer is an update of `sync`. -/
theorem secondMarkerByteIsHeld : Obligations.SecondMarkerByteIsHeld := fun _ => exec_syncF00_of_sawFf

/-- Settles O10: the row's answer is Normal after one Append, written out. -/
theorem refutedMarkIsData : Obligations.RefutedMarkIsData := fun _ _ => exec_syncFLit_of_sawFf

/-- Settles O11: the row's answer is Normal after two Appends, written out. -/
theorem refutedPairIsData : Obligations.RefutedPairIsData := fun _ _ => exec_syncFzLit_of_sawFf00

/-! ### The break -/

theorem exec_brk_of_free (hw : cfgWf s.cfg = true) (hp : s.pendValid = false) : exec .brk s = breakFrame s :=
  guardFree_of_wf hw hp breakFrame

theorem exec_processFrame_of_free (hw : cfgWf s.cfg = true) (hp : s.pendValid = false) :
    exec .processFrame s = processFrame s :=
  guardFree_of_wf hw hp processFrame

theorem breakFrame_of_overflow (ho : s.ovf = true) : breakFrame s = .next (discard .frameOverflow s.startFrame) := if_pos ho

theorem breakFrame_of_short (ho : s.ovf = false) (h : (candidate s).length < 5) :
    breakFrame s = .next (discard .frameShort s.startFrame) :=
  (if_neg (Bool.eq_false_iff.mp ho)).trans (if_pos h)

theorem breakFrame_of_long (ho : s.ovf = false) (h : 5 ≤ (candidate s).length) :
    breakFrame s = processFrame (s.startFrame.putWork { Work.idle with raw := candidate s }) :=
  (if_neg (Bool.eq_false_iff.mp ho)).trans (if_neg (Nat.not_lt.mpr h))

/-- Settles O14: the three cases of Break; the third state meets the guard of PROCESS_FRAME as well (log entry 5). -/
theorem breakClassifiesTheCandidate : Obligations.BreakClassifiesTheCandidate := by
  intro s hw hp
  rw [exec_brk_of_free hw hp]
  refine ⟨breakFrame_of_overflow, breakFrame_of_short, fun ho h => ?long⟩
  have hstage : exec .processFrame (s.startFrame.putWork { Work.idle with raw := candidate s }) =
      processFrame (s.startFrame.putWork { Work.idle with raw := candidate s }) := exec_processFrame_of_free hw hp
  exact (breakFrame_of_long ho h).trans hstage.symm

/-- A break that answers raises exactly one event (R103). -/
theorem breakFrame_one_event (h : breakFrame s = .next t) : ∃ e, t.evt = some e ∧ t.events = s.events ++ [e] := by
  obtain ⟨e, _, _, rfl⟩ | ⟨k, ws, e, _, rfl⟩ := breakFrame_cases h <;> exact ⟨e, rfl, rfl⟩

/-- Under a well-formed configuration Break completes, with one event and the next frame empty (R103, R105). -/
theorem exists_breakFrame (hw : cfgWf s.cfg = true) :
    ∃ t e, breakFrame s = .next t ∧ t.sync = s.sync ∧ t.cnt = 0 ∧ t.ovf = false ∧ t.evt = some e ∧
      t.events = s.events ++ [e] := by
  obtain ⟨t, ht, _⟩ := breakFrame_event hw
  obtain ⟨hsync, hcnt, hovf⟩ := breakFrame_starts_frame ht
  obtain ⟨e, hevt, hevents⟩ := breakFrame_one_event ht
  exact ⟨t, e, ht, hsync, hcnt, hovf, hevt, hevents⟩

/-- Settles O12: the row and BREAK are both Break, from NORMAL, and Break completes. -/
theorem tripletConfirmsABreak : Obligations.TripletConfirmsABreak := by
  intro s hw hp hs
  have hrow : exec .syncFzBrk s = breakFrame (s.putSync .normal) := exec_syncFzBrk_of_sawFf00 hw hp hs
  have hbrk : exec .brk (s.putSync .normal) = breakFrame (s.putSync .normal) := exec_brk_of_free hw hp
  rw [hrow]
  exact ⟨hbrk.symm, exists_breakFrame (s := s.putSync .normal) hw⟩

end Sys2Proof.Machine

/-! What a byte row leaves unchanged (40_synchronizer.md, head and R108), and where records come from and go (R109). -/
namespace Sys2Proof.Machine
open Safety

variable {s t u : State} {b : Byte} {m n : Nat}

/-! ### Appending at most `n` bytes -/

/-- `t` is `s` after at most `n` bytes were appended: only the synchronizer's elements differ, and of the buffer only the bytes
from `s.cnt` up to `t.cnt`. -/
structure Appends (n : Nat) (s t : State) : Prop where
  frame : t = { s with sync := t.sync, buf := t.buf, cnt := t.cnt, ovf := t.ovf }
  cnt_le : s.cnt ≤ t.cnt
  le_cnt : t.cnt ≤ s.cnt + n
  outside : ∀ k, k < s.cnt ∨ t.cnt ≤ k → t.buf[k]? = s.buf[k]?

theorem Appends.refl (s : State) : Appends 0 s s := ⟨rfl, Nat.le_refl _, Nat.le_refl _, fun _ _ => rfl⟩

theorem Appends.mono (h : Appends m s t) (hmn : m ≤ n) : Appends n s t :=
  ⟨h.frame, h.cnt_le, h.le_cnt.trans (Nat.add_le_add_left hmn _), h.outside⟩

theorem Appends.trans (h : Appends m s t) (h' : Appends n t u) : Appends (m + n) s u := by
  obtain ⟨hf, hc, hn, ho⟩ := h
  obtain ⟨hf', hc', hn', ho'⟩ := h'
  refine ⟨?frame, hc.trans hc', by omega, fun k hk => ?outside⟩
  case frame =>
    rw [hf] at hf'
    exact hf'
  case outside => exact (ho' k (by omega)).trans (ho k (by omega))

theorem appends_putSync (v : Sync) (s : State) : Appends 0 s (s.putSync v) :=
  ⟨rfl, Nat.le_refl _, Nat.le_refl _, fun _ _ => rfl⟩

theorem appends_append (x : Byte) (s : State) : Appends 1 s (append x s) := by
  obtain ⟨_, e⟩ | ⟨_, e⟩ := append_cases s x <;> rw [e]
  · refine ⟨rfl, Nat.le_succ _, Nat.le_refl _, fun k hk => List.getElem?_set_ne ?_⟩
    rw [State.pushByte_cnt] at hk
    omega
  · exact ⟨rfl, Nat.le_refl _, Nat.le_succ _, fun _ _ => rfl⟩

theorem appends_normalByte (b : Byte) (s : State) : Appends 1 s (normalByte b s) := by
  obtain e | e := normalByte_cases (b := b) (s := s) <;> rw [e]
  · exact (appends_putSync _ _).mono (Nat.zero_le _)
  · exact appends_append b s

/-- Settles O13, row by row: each is a sequence of at most three Appends and of updates of `sync`. -/
theorem byteRowsTouchOnlyTheSynchronizer : Obligations.ByteRowsTouchOnlyTheSynchronizer := by
  intro s t i b hi h
  have happends : Appends 3 s t := by
    simp only [List.mem_cons, List.not_mem_nil, or_false] at hi
    obtain rfl | rfl | rfl | rfl | rfl := hi
    · obtain ⟨_, _, _, rfl⟩ := execSyncNFf_next h
      exact (appends_putSync _ _).mono (by decide)
    · obtain ⟨_, _, _, rfl⟩ := execSyncNLit_next h
      exact (appends_append _ _).mono (by decide)
    · obtain ⟨_, _, _, rfl⟩ := execSyncF00_next h
      exact (appends_putSync _ _).mono (by decide)
    · obtain ⟨_, _, _, rfl⟩ := execSyncFLit_next h
      exact (((appends_append _ _).trans (appends_putSync _ _)).trans (appends_normalByte _ _)).mono (by decide)
    · obtain ⟨_, _, _, rfl⟩ := execSyncFzLit_next h
      exact (((appends_append _ _).trans (appends_append _ _)).trans (appends_putSync _ _)).trans (appends_normalByte _ _)
  exact ⟨happends.frame, happends.cnt_le, happends.le_cnt, happends.outside⟩

/-! ### Where records come from -/

/-- A byte selects the break or a row without one. -/
theorem decodeByte_brk_or_byteRow {sy : Sync} {i : Instr} (h : decodeByte sy b = .ok i) :
    i = .syncFzBrk ∨ i ∈ [.syncNFf, .syncNLit b, .syncF00, .syncFLit b, .syncFzLit b] := by
  obtain ⟨_, _, rfl⟩ | ⟨_, _, rfl⟩ | ⟨_, _, rfl⟩ | ⟨_, _, rfl⟩ | ⟨_, _, rfl⟩ | ⟨_, _, rfl⟩ := decodeByte_ok_cases h <;> simp

theorem breakFrame_accepted (h : breakFrame s = .next t) : t.accepted = s.accepted := by
  obtain ⟨e, _, _, rfl⟩ | ⟨k, ws, e, _, rfl⟩ := breakFrame_cases h <;> rfl

/-- Settles O51, by what the step selects: only SINK_TAKE writes the accepted records, only RESET, SINK_TAKE and a break write the
output slot, and a byte step needs the slot empty. -/
theorem recordsComeFromBreaksInOrder : Obligations.RecordsComeFromBreaksInOrder := by
  intro s t h
  have hsource : s.pendValid = true → t.source = s.source := fun hp => by
    obtain hs | ⟨_, _, hfree, _⟩ := step_source_cases h
    · exact hs
    · exact absurd hp (Bool.eq_false_iff.mp hfree)
  suffices hrec : (t.pendValid = true → (s.pendValid = true ∧ t.pendRec = s.pendRec) ∨ breakStep s) ∧
      (t.accepted = s.accepted ∨ (s.pendValid = true ∧ t.pendValid = false ∧ t.accepted = s.accepted ++ [s.pendRec])) from
    ⟨hrec.1, hrec.2, hsource⟩
  obtain ⟨_, rfl⟩ | ⟨i, u, hf, h⟩ := step_next_cases h
  · exact ⟨fun hp => .inl ⟨hp, rfl⟩, .inl rfl⟩
  · obtain ⟨_, ⟨_, rfl, rfl⟩ | ⟨_, hp, _, rfl, rfl⟩ | ⟨_, _, _, b, bs, _, hd, rfl⟩⟩ := fetch_run_cases hf
    · obtain ⟨_, rfl⟩ := execReset_next h
      exact ⟨nofun, .inl rfl⟩
    · obtain ⟨_, _, rfl⟩ := execSinkTake_next h
      exact ⟨nofun, .inr ⟨hp, rfl, rfl⟩⟩
    · obtain rfl | hrow := decodeByte_brk_or_byteRow hd
      · obtain ⟨_, _, _, h⟩ := execSyncFzBrk_next h
        have haccepted := breakFrame_accepted h
        exact ⟨fun _ => .inr ⟨_, hf⟩, .inl haccepted⟩
      · obtain ⟨hframe, -⟩ := byteRowsTouchOnlyTheSynchronizer _ t i b hrow h
        rw [hframe]
        exact ⟨fun hp => .inl ⟨hp, rfl⟩, .inl rfl⟩

end Sys2Proof.Machine

/-! Streams through the synchronizer (40_synchronizer.md R110, R111): the bytes received since the frame began are the candidate and
the bytes held back, so a stuffed frame without a break triplet is the candidate when its break begins. -/
namespace Sys2Proof.Machine
open Safety

variable {s t : State} {b : Byte} {bs rest l p : List Byte} {ev : List Event} {i : Instr} {n : Nat}

/-! ### The held bytes -/

/-- The bytes received and not yet appended (R21). -/
def held : Sync → List Byte
  | .sawFf => [0xFF]
  | .sawFf00 => [0xFF, 0x00]
  | .normal | .reserved => []

/-- The bytes appended in order (R104). -/
def appendAll (l : List Byte) (s : State) : State := l.foldl (fun u x => append x u) s

@[simp] theorem appendAll_sync (l : List Byte) (s : State) : (appendAll l s).sync = s.sync := by
  induction l generalizing s with
  | nil => rfl
  | cons x l ih => exact (ih (append x s)).trans (append_sync s x)

/-- The held bytes turn out to be data: in NORMAL they are appended (R102, R107). -/
def release (s : State) : State := appendAll (held s.sync) (s.putSync .normal)

@[simp] theorem release_sync (s : State) : (release s).sync = .normal := by
  rw [release, appendAll_sync, State.putSync_sync]

theorem release_of_normal (hs : s.sync = .normal) : release s = s := by
  have hsame : s.putSync s.sync = s := rfl
  rw [release, hs, ← hs, hsame, hs]
  rfl

theorem release_of_sawFf (hs : s.sync = .sawFf) : release s = (append 0xFF s).putSync .normal := by
  rw [release, hs, ← append_putSync]
  rfl

theorem release_of_sawFf00 (hs : s.sync = .sawFf00) : release s = (append 0x00 (append 0xFF s)).putSync .normal := by
  rw [release, hs, ← append_putSync, ← append_putSync]
  rfl

/-- A byte that does not go on with the marker is classified in NORMAL after the held bytes (R102, R106 to R108). -/
theorem exec_of_refuted (hw : cfgWf s.cfg = true) (hp : s.pendValid = false) (hd : decodeByte s.sync b = .ok i)
    (hb : b = 0x00 → s.sync = .normal) : exec i s = .next (normalByte b (release s)) := by
  obtain ⟨hs, rfl, rfl⟩ | ⟨hs, hff, rfl⟩ | ⟨hs, h0, _⟩ | ⟨hs, h0, rfl⟩ | ⟨hs, h0, _⟩ | ⟨hs, h0, rfl⟩ := decodeByte_ok_cases hd
  · rw [release_of_normal hs, normalByte_mark]
    exact exec_syncNFf_of_normal hw hp hs
  · rw [release_of_normal hs, normalByte_literal s hff]
    exact exec_syncNLit_of_normal hw hp hs hff
  · exact absurd (hs.symm.trans (hb h0)) (by decide)
  · rw [release_of_sawFf hs]
    exact exec_syncFLit_of_sawFf hw hp hs h0
  · exact absurd (hs.symm.trans (hb h0)) (by decide)
  · rw [release_of_sawFf00 hs]
    exact exec_syncFzLit_of_sawFf00 hw hp hs h0

theorem step_of_refuted (h : Offered s b bs) (hs : s.sync ≠ .reserved) (hb : b = 0x00 → s.sync = .normal) :
    step s = .next (normalByte b (release (s.beginStep.putSource bs))) := by
  obtain ⟨i, hd⟩ := exists_decodeByte hs b
  exact (step_of_offered h hd).trans (exec_of_refuted h.wf h.free hd hb)

/-- In every named state an FF is held, and the bytes held before it are data (R100, R102, R107). -/
theorem step_of_mark (h : Offered s 0xFF bs) (hs : s.sync ≠ .reserved) :
    step s = .next ((release (s.beginStep.putSource bs)).putSync .sawFf) := by
  rw [← normalByte_mark]
  exact step_of_refuted h hs (fun h0 => absurd h0 (by decide))

/-! ### A stream on quiet levels -/

/-- The coming steps take the bytes `bs`, one a step, and the events so far are `ev`. -/
structure Streaming (ev : List Event) (bs : List Byte) (s : State) : Prop where
  wf : cfgWf s.cfg = true
  free : s.pendValid = false
  quiet : s.drive = []
  source : s.source = bs
  events : s.events = ev

theorem Streaming.offered (h : Streaming ev (b :: bs) s) : Offered s b bs := offered_of_quiet h.wf h.free h.quiet h.source

theorem appends_appendAll (l : List Byte) (s : State) : Appends l.length s (appendAll l s) := by
  induction l generalizing s with
  | nil => exact Appends.refl s
  | cons x l ih => exact ((appends_append x s).trans (ih _)).mono (by rw [List.length_cons, Nat.add_comm])

theorem appends_release (s : State) : Appends (0 + (held s.sync).length) s (release s) :=
  (appends_putSync .normal s).trans (appends_appendAll (held s.sync) (s.putSync .normal))

/-- A step that only appends goes on with the stream. -/
theorem Streaming.next (h : Streaming ev (b :: bs) s) (ha : Appends n (s.beginStep.putSource bs) t) : Streaming ev bs t := by
  obtain ⟨hw, hp, hd, _, he⟩ := h
  have hd' : s.drive.tail = [] := by rw [hd, List.tail_nil]
  rw [ha.frame]
  exact ⟨hw, hp, hd', rfl, he⟩

theorem Streaming.mark (h : Streaming ev (0xFF :: bs) s) :
    Streaming ev bs ((release (s.beginStep.putSource bs)).putSync .sawFf) :=
  h.next ((appends_release _).trans (appends_putSync _ _))

theorem Streaming.zero (h : Streaming ev (0x00 :: bs) s) : Streaming ev bs ((s.beginStep.putSource bs).putSync .sawFf00) :=
  h.next (appends_putSync _ _)

/-! ### The marker -/

/-- Two zeros after a held mark confirm a break, with one event and the next frame empty (R101, R103). -/
theorem run_two_zeros_one_event (h : Streaming ev (0x00 :: 0x00 :: rest) s) (hs : s.sync = .sawFf) :
    ∃ t e, Host.Core.run Sys2Proof.core 2 s = .next t ∧ t.sync = .normal ∧ t.cnt = 0 ∧ t.ovf = false ∧ t.source = rest ∧
      t.evt = some e ∧ t.events = ev ++ [e] := by
  let u := (s.beginStep.putSource (0x00 :: rest)).putSync .sawFf00
  have h1 : step s = .next u := step_of_sawFf_zero h.offered hs
  have h2 : step u = breakFrame ((u.beginStep.putSource rest).putSync .normal) := step_of_sawFf00_zero h.zero.offered rfl
  obtain ⟨t, e, ht, hsync, hcnt, hovf, hevt, hevents⟩ :=
    exists_breakFrame (s := (u.beginStep.putSource rest).putSync .normal) h.wf
  have hevents' : t.events = s.events ++ [e] := hevents
  refine ⟨t, e, ?_, hsync, hcnt, hovf, breakFrame_source ht, hevt, h.events ▸ hevents'⟩
  rw [run_succ h1, run_succ (h2.trans ht)]
  rfl

/-- R111 on quiet levels: the FF is held, whatever was held before it, and the two zeros confirm the break. -/
theorem run_marker (h : Streaming ev (0xFF :: 0x00 :: 0x00 :: rest) s) (hs : s.sync ≠ .reserved) :
    (∃ u, Host.Core.run Sys2Proof.core 1 s = .next u ∧ u.sync = .sawFf) ∧
    ∃ t e, Host.Core.run Sys2Proof.core 3 s = .next t ∧ t.sync = .normal ∧ t.cnt = 0 ∧ t.ovf = false ∧ t.source = rest ∧
      t.evt = some e ∧ t.events = ev ++ [e] := by
  have h1 := step_of_mark h.offered hs
  obtain ⟨t, e, hrun, hbreak⟩ := run_two_zeros_one_event h.mark rfl
  exact ⟨⟨_, run_succ h1 0, rfl⟩, t, e, (run_succ h1 2).trans hrun, hbreak⟩

/-- Settles O17: the marker's run on quiet levels (log entry 4). -/
theorem markerResynchronizesFromEveryState : Obligations.MarkerResynchronizesFromEveryState :=
  fun _ _ hw hs hp hd hsrc => run_marker ⟨hw, hp, hd, hsrc, rfl⟩ hs

/-- Settles O58: the marker's run on quiet levels, carried through the plan's waits. -/
theorem markerResynchronizesThroughWaits : Obligations.MarkerResynchronizesThroughWaits := by
  intro s rest hw hs hp hr hn hsrc
  obtain ⟨-, t, e, hrun, hsync, hcnt, hovf, hsource, hevt, hevents⟩ :=
    run_marker (s := s.withPlan []) ⟨hw, hp, rfl, hsrc, rfl⟩ hs
  obtain ⟨k, hk, hoffers, hrun'⟩ := run_through_waits hw hr hn (by rw [hsource, hsrc]; rfl) hrun
  exact ⟨k, _, e, hk, hoffers, hrun', hsync, hcnt, hovf, hsource, hevt, hevents⟩

/-! ### Every received byte is in the candidate or held -/

/-- Since the frame began the bytes `p` were received, and the buffer of `n` bytes had room for those that were appended. -/
structure Received (n : Nat) (p : List Byte) (s : State) : Prop where
  named : s.sync ≠ .reserved
  capacity : s.cfg.maxRawLen = n
  size : s.buf.length = n
  fits : s.cnt ≤ n
  noOverflow : s.ovf = false
  bytes : candidate s ++ held s.sync = p

/-- The environment's move for a step does not touch the received bytes. -/
theorem received_takeByte (h : Received n p s) (bs : List Byte) : Received n p (s.beginStep.putSource bs) :=
  ⟨h.named, h.capacity, h.size, h.fits, h.noOverflow, h.bytes⟩

theorem Received.candidate_of_normal (h : Received n p s) (hs : s.sync = .normal) : candidate s = p := by
  have hbytes := h.bytes
  rwa [hs, held, List.append_nil] at hbytes

theorem length_lt_of_append_le (h : (p ++ [b] ++ l).length ≤ n) : p.length < n := by
  simp only [List.length_append, List.length_singleton] at h
  omega

theorem received_append (h : Received n p s) (hs : s.sync = .normal) (hroom : p.length < n) (x : Byte) :
    Received n (p ++ [x]) (append x s) := by
  have hp : candidate s = p := h.candidate_of_normal hs
  obtain ⟨_, hcap, hsize, hfits, hovf, _⟩ := h
  have hcnt : p.length = s.cnt := by rw [← hp, candidate, List.length_take, hsize, Nat.min_eq_left hfits]
  have hlt : s.cnt < s.cfg.maxRawLen := by omega
  have hcand : candidate (append x s) = p ++ [x] := by rw [candidate_append_of_lt (hsize.trans hcap.symm) hlt, hp]
  refine ⟨by simp [hs], by simpa using hcap, ?_, ?_, ?_, by simp [hcand, hs, held]⟩
  all_goals rw [append_of_lt hlt]
  · simpa using hsize
  · rw [State.pushByte_cnt]; omega
  · exact hovf

theorem received_appendAll (h : Received n p s) (hs : s.sync = .normal) (hroom : (p ++ l).length ≤ n) :
    Received n (p ++ l) (appendAll l s) := by
  induction l generalizing s p with
  | nil => rwa [List.append_nil]
  | cons x l ih =>
    rw [List.append_cons] at hroom ⊢
    exact ih (received_append h hs (length_lt_of_append_le hroom) x) (by rw [append_sync, hs]) hroom

/-- The held bytes, once appended, are received all the same. -/
theorem received_release (h : Received n p s) (hroom : p.length ≤ n) : Received n p (release s) := by
  obtain ⟨_, hcap, hsize, hfits, hovf, rfl⟩ := h
  have hcand : Received n (candidate s) (s.putSync .normal) :=
    ⟨by simp, hcap, hsize, hfits, hovf, List.append_nil _⟩
  exact received_appendAll hcand rfl hroom

/-- A held FF is received (R100). -/
theorem received_mark (h : Received n p s) (hroom : p.length ≤ n) : Received n (p ++ [0xFF]) ((release s).putSync .sawFf) := by
  have hcand := (received_release h hroom).candidate_of_normal (release_sync s)
  obtain ⟨_, hcap, hsize, hfits, hovf, _⟩ := received_release h hroom
  exact ⟨by simp, hcap, hsize, hfits, hovf, congrArg (· ++ [0xFF]) hcand⟩

/-- A held 00 is received (R101). -/
theorem received_zero (h : Received n p s) (hs : s.sync = .sawFf) : Received n (p ++ [0x00]) (s.putSync .sawFf00) := by
  obtain ⟨_, hcap, hsize, hfits, hovf, rfl⟩ := h
  refine ⟨by simp, hcap, hsize, hfits, hovf, ?_⟩
  rw [hs, List.append_assoc]
  rfl

/-- A byte classified in NORMAL after the held bytes is received (R108). -/
theorem received_normalByte (h : Received n p s) (hroom : p.length < n) (b : Byte) :
    Received n (p ++ [b]) (normalByte b (release s)) := by
  by_cases hb : b = 0xFF
  · rw [hb, normalByte_mark]
    exact received_mark h hroom.le
  · rw [normalByte_literal _ hb]
    exact received_append (received_release h hroom.le) (release_sync s) hroom b

/-- A step that takes a byte with room for it, where no break triplet ends in it, receives it. -/
theorem step_receives (h : Received n p s) (hst : Streaming ev (b :: bs) s) (hb : ¬ hasTriplet (p ++ [b]))
    (hroom : p.length < n) : ∃ t, step s = .next t ∧ Received n (p ++ [b]) t ∧ Streaming ev bs t := by
  by_cases hrefuted : b = 0x00 → s.sync = .normal
  · exact ⟨_, step_of_refuted hst.offered h.named hrefuted, received_normalByte (received_takeByte h bs) hroom b,
      hst.next ((appends_release _).trans (appends_normalByte b _))⟩
  · obtain ⟨rfl, hs⟩ := Classical.not_imp.mp hrefuted
    cases hsy : s.sync with
    | normal => exact absurd hsy hs
    | sawFf => exact ⟨_, step_of_sawFf_zero hst.offered hsy, received_zero (received_takeByte h bs) hsy, hst.zero⟩
    | sawFf00 =>
      have hp := h.bytes
      rw [hsy] at hp
      exact absurd ⟨candidate s, [], by rw [← hp]; simp [held]⟩ hb
    | reserved => exact absurd hsy h.named

/-- A stream without a break triplet, with room for it, is received byte by byte. -/
theorem run_receives (h : Received n p s) (hst : Streaming ev (l ++ rest) s) (htriplet : ¬ hasTriplet (p ++ l))
    (hroom : (p ++ l).length ≤ n) :
    ∃ t, Host.Core.run Sys2Proof.core l.length s = .next t ∧ Received n (p ++ l) t ∧ Streaming ev rest t := by
  induction l generalizing s p with
  | nil => exact ⟨s, rfl, by rwa [List.append_nil], hst⟩
  | cons b l ih =>
    rw [List.append_cons] at htriplet hroom ⊢
    have hb : ¬ hasTriplet (p ++ [b]) := fun hin => htriplet (hin.trans (List.infix_append_left))
    obtain ⟨u, hstep, hu, hstu⟩ := step_receives h hst hb (length_lt_of_append_le hroom)
    obtain ⟨t, hrun, ht⟩ := ih hu hstu htriplet hroom
    exact ⟨t, (run_succ hstep l.length).trans hrun, ht⟩

/-! ### Stuffing -/

theorem stuff_cons_mark (r : List Byte) : stuff (0xFF :: r) = 0xFF :: 0xFF :: stuff r := if_pos rfl

theorem stuff_cons_literal (hb : b ≠ 0xFF) (r : List Byte) : stuff (b :: r) = b :: stuff r := if_neg hb

theorem destuff_cons_literal (hb : b ≠ 0xFF) (m : List Byte) : destuff (b :: m) = b :: destuff m := by
  cases m with
  | nil => rfl
  | cons y r => exact if_neg fun h => hb h.1

/-- Destuffing undoes stuffing (R81, R120). -/
theorem destuff_stuff (l : List Byte) : destuff (stuff l) = l := by
  induction l with
  | nil => rfl
  | cons b r ih =>
    by_cases hb : b = 0xFF
    · rw [hb, stuff_cons_mark, destuff, if_pos ⟨rfl, rfl⟩, ih]
    · rw [stuff_cons_literal hb, destuff_cons_literal hb, ih]

/-- Leading zeros of a stuffed frame are the frame's own. -/
theorem zeros_prefix_of_stuff {k : Nat} (h : List.replicate k 0x00 <+: stuff l) : List.replicate k 0x00 <+: l := by
  induction k generalizing l with
  | zero => exact List.nil_prefix
  | succ k ih =>
    cases l with
    | nil => exact h
    | cons b r =>
      by_cases hb : b = 0xFF
      · rw [hb, stuff_cons_mark, List.replicate_succ, List.cons_prefix_cons] at h
        exact absurd h.1 (by decide)
      · rw [stuff_cons_literal hb, List.replicate_succ, List.cons_prefix_cons] at h
        exact List.cons_prefix_cons.mpr ⟨h.1, ih h.2⟩

/-- Stuffing makes no break triplet: one in the stuffed frame comes from one in the frame (R63). -/
theorem hasTriplet_of_stuff (h : hasTriplet (stuff l)) : hasTriplet l := by
  induction l with
  | nil => exact h
  | cons b r ih =>
    unfold hasTriplet at h ih ⊢
    by_cases hb : b = 0xFF
    · rw [hb, stuff_cons_mark, List.infix_cons_iff, List.infix_cons_iff, List.cons_prefix_cons, List.cons_prefix_cons,
        List.cons_prefix_cons] at h
      obtain ⟨_, h0, _⟩ | ⟨_, hzeros⟩ | hin := h
      · exact absurd h0 (by decide)
      · rw [hb]
        exact (List.cons_prefix_cons.mpr ⟨rfl, zeros_prefix_of_stuff (k := 2) hzeros⟩).isInfix
      · exact (ih hin).trans (List.suffix_cons b r).isInfix
    · rw [stuff_cons_literal hb, List.infix_cons_iff, List.cons_prefix_cons] at h
      obtain ⟨hff, _⟩ | hin := h
      · exact absurd hff.symm hb
      · exact (ih hin).trans (List.suffix_cons b r).isInfix

/-! ### A stuffed frame is recovered -/

/-- The first two bytes of a break are held, and the bytes received before them are the candidate (R100, R101, R107). -/
theorem run_break_begins (h : Received n p s) (hst : Streaming ev (0xFF :: 0x00 :: rest) s) (hroom : p.length ≤ n) :
    ∃ t, Host.Core.run Sys2Proof.core 2 s = .next t ∧ t.sync = .sawFf00 ∧ t.ovf = false ∧ candidate t = p ∧
      Streaming ev rest t := by
  have h1 := step_of_mark hst.offered h.named
  have h2 := step_of_sawFf_zero hst.mark.offered rfl
  have hmark := received_mark (received_takeByte h (0x00 :: rest)) hroom
  have hboth := received_zero (received_takeByte hmark rest) rfl
  have hcand : candidate _ ++ [0xFF, 0x00] = p ++ [0xFF] ++ [0x00] := hboth.bytes
  refine ⟨_, ?_, rfl, hboth.noOverflow, ?_, hst.mark.zero⟩
  · rw [run_succ h1, run_succ h2]
    rfl
  · rw [List.append_assoc] at hcand
    exact List.append_cancel_right hcand

/-- R110 on quiet levels: the candidate is the stuffed frame when the break begins. -/
theorem run_stuffed (h : Received n [] s) (hst : Streaming ev (stuff l ++ [0xFF, 0x00] ++ rest) s) (hl : ¬ hasTriplet l)
    (hroom : (stuff l).length ≤ n) :
    ∃ t, Host.Core.run Sys2Proof.core ((stuff l).length + 2) s = .next t ∧ t.sync = .sawFf00 ∧ t.ovf = false ∧
      t.source = rest ∧ t.events = ev ∧ destuff (candidate t) = l := by
  rw [List.append_assoc] at hst
  obtain ⟨u, hrun, hu, hstu⟩ := run_receives h hst (mt hasTriplet_of_stuff hl) hroom
  obtain ⟨t, hrun', hsync, hovf, hcand, hstt⟩ := run_break_begins hu hstu hroom
  exact ⟨t, (run_append hrun 2).trans hrun', hsync, hovf, hstt.source, hstt.events, hcand ▸ destuff_stuff l⟩

theorem received_nil_of_empty (hb : s.buf.length = s.cfg.maxRawLen) (hs : s.sync = .normal) (hc : s.cnt = 0)
    (ho : s.ovf = false) : Received s.cfg.maxRawLen [] s :=
  ⟨by simp [hs], rfl, hb, by simp [hc], ho, by simp [candidate, hs, hc, held]⟩

/-- Settles O18: the stuffed frame's run on quiet levels (log entry 4), from an empty candidate. -/
theorem stuffedFrameIsRecovered : Obligations.StuffedFrameIsRecovered :=
  fun _ _ _ hl hw hb hroom hs hc ho hp hd hsrc =>
    run_stuffed (received_nil_of_empty hb hs hc ho) ⟨hw, hp, hd, hsrc, rfl⟩ hl hroom

/-- Settles O59: the stuffed frame's run on quiet levels, carried through the plan's waits. -/
theorem stuffedFrameIsRecoveredThroughWaits : Obligations.StuffedFrameIsRecoveredThroughWaits := by
  intro l rest s hl hw hb hroom hs hc ho hp hr hn hsrc
  obtain ⟨t, hrun, hsync, hovf, hsource, hevents, hframe⟩ := run_stuffed (s := s.withPlan [])
    (received_nil_of_empty hb hs hc ho) ⟨hw, hp, rfl, hsrc, rfl⟩ hl hroom
  have htaken : t.source.length + ((stuff l).length + 2) = s.source.length := by
    simp only [hsource, hsrc, List.length_append, List.length_cons, List.length_nil]
    omega
  obtain ⟨k, hk, hoffers, hrun'⟩ := run_through_waits hw hr hn htaken hrun
  exact ⟨k, _, hk, hoffers, hrun', hsync, hovf, hsource, hevents, hframe⟩

end Sys2Proof.Machine

/-!
# The de-stuffer

DESTUFF (41_destuffer.md). Its frame is the guard's one equation. Its value is fixed by two laws, each by an induction along the
function's own recursion: how a run of FF shrinks, and that a byte other than FF splits the work into two parts that do not meet.
The length is bounded below by `length_le_two_mul_destuff` and above by the input's own length.
-/
namespace Sys2Proof.Machine

variable {s : State} {x : Byte}

/-- R120: DESTUFF writes the frame in progress and nothing else. -/
theorem execDestuff_of_wf (hw : cfgWf s.cfg = true) :
    execDestuff s = .next { s with work := { s.work with frame := destuff s.work.raw } } :=
  guardCfg_of_wf hw _

/-! ### The value -/

theorem destuff_cons_pair (r : List Byte) : destuff (0xFF :: 0xFF :: r) = 0xFF :: destuff r := if_pos ⟨rfl, rfl⟩

/-- A run of `k` FF becomes `ceil(k/2)` FF: two marks at a time become one (R120). -/
theorem destuff_replicate_mark : ∀ k : Nat, destuff (List.replicate k 0xFF) = List.replicate ((k + 1) / 2) 0xFF
  | 0 => rfl
  | 1 => rfl
  | k + 2 => by
    have hhalf : (k + 2 + 1) / 2 = (k + 1) / 2 + 1 := by omega
    rw [hhalf, List.replicate_succ, List.replicate_succ, List.replicate_succ, destuff_cons_pair, destuff_replicate_mark k]

/-- No pair reaches across a byte other than FF, so it stands unchanged between the parts before and after it (R120). -/
theorem destuff_append_literal (hx : x ≠ 0xFF) (a b : List Byte) : destuff (a ++ x :: b) = destuff a ++ x :: destuff b := by
  induction a using destuff.induct with
  | case1 => exact destuff_cons_literal hx b
  | case2 y =>
    have hpair : ¬ (y = 0xFF ∧ x = 0xFF) := fun h => hx h.2
    calc destuff (y :: x :: b)
      _ = y :: destuff (x :: b) := if_neg hpair
      _ = y :: x :: destuff b := by rw [destuff_cons_literal hx]
  | case3 y z r h ih =>
    rw [List.cons_append, List.cons_append, destuff, destuff, if_pos h, if_pos h, ih, List.cons_append]
  | case4 y z r h ih =>
    rw [List.cons_append, List.cons_append, destuff, destuff, if_neg h, if_neg h, ← List.cons_append, ih, List.cons_append]

/-- Settles O20: the frame of DESTUFF, the law of runs and the law of splitting. -/
theorem destuffCollapsesRunsOfMarks : Obligations.DestuffCollapsesRunsOfMarks :=
  ⟨fun _ hw => execDestuff_of_wf hw, destuff_replicate_mark, fun a b _ hx => destuff_append_literal hx a b⟩

/-! ### The length -/

/-- Destuffing never lengthens its input (R122). -/
theorem length_destuff_le (raw : List Byte) : (destuff raw).length ≤ raw.length := by
  induction raw using destuff.induct with
  | case1 => exact Nat.le_refl _
  | case2 x => exact Nat.le_refl _
  | case3 x y r h ih =>
    rw [destuff, if_pos h]
    exact Nat.succ_le_succ (Nat.le_succ_of_le ih)
  | case4 x y r h ih =>
    rw [destuff, if_neg h]
    exact Nat.succ_le_succ ih

/-- Settles O21: the three lower bounds are each the bound by half the input, the upper bound is that destuffing never lengthens. -/
theorem destuffedLengthBounds : Obligations.DestuffedLengthBounds := by
  intro raw
  have hhalf := length_le_two_mul_destuff raw
  exact ⟨by omega, length_destuff_le raw, three_le_destuff, fun n hn => by omega⟩

end Sys2Proof.Machine

/-!
# The CRC

CrcStep and CRC_CHECK (42_crc.md). The five steps of R130 are read off bit by bit once; the closed form of R132, the linearity and the
bijectivity of R133 are then facts about single bits. A checksum depends injectively on every byte it covers, so a frame that differs
from an accepted one in one byte is rejected, and a flipped bit is such a difference.
-/
namespace Sys2Proof.Machine

variable {s : State} {a b p q f : List Byte} {u v x y : Byte} {i j : Nat}

/-! ### The bits of CrcStep -/

/-- The byte is XORed in last (R130). -/
theorem crcStep_eq_xor (u x : Byte) : crcStep u x = crcStep u 0 ^^^ x :=
  (congrArg (fun y => y ^^^ x) BitVec.xor_zero).symm

/-- The mask of R130's fourth step keeps every bit but bit 0. -/
theorem getElem_succ_stepMask (h : i + 1 < 8) : (0xFE#8)[i + 1] = true := by
  have hshift : 0xFE#8 = BitVec.allOnes 8 <<< 1 := rfl
  rw [hshift, BitVec.getElem_shiftLeft, BitVec.getElem_allOnes]
  simp

/-- Bit 7 comes round to bit 0. -/
theorem getElem_zero_crcStep (u : Byte) : (crcStep u 0)[0] = u[7] := by
  cases hu : u[7] <;> simp [crcStep, hu]

/-- Each other bit moves up by one place, through CRC_CONST when bit 7 is set. -/
theorem getElem_succ_crcStep (u : Byte) (h : i + 1 < 8) :
    (crcStep u 0)[i + 1] = (u[i] ^^ (u[7] && crcConst[i])) := by
  have hmask := getElem_succ_stepMask h
  cases hu : u[7] <;> simp [crcStep, hu, hmask]

/-- Two bytes with equal bits are equal; bit 0 and the bits above it are taken apart, as the step does. -/
theorem byte_ext (h0 : x[0] = y[0]) (hs : ∀ i (h : i + 1 < 8), x[i + 1] = y[i + 1]) : x = y := by
  refine BitVec.eq_of_getElem_eq fun i hi => ?_
  cases i with
  | zero => exact h0
  | succ i => exact hs i hi

/-! ### The closed form -/

/-- What bit 7 adds to the rotation is CRC_CONST moved up by one place (R132). -/
theorem getElem_succ_closedFormConst (h : i + 1 < 8) : (0x18#8)[i + 1] = crcConst[i] := by
  have hshift : 0x18#8 = crcConst <<< 1 := rfl
  rw [hshift, BitVec.getElem_shiftLeft]
  simp

theorem crcStep_zero_closedForm (u : Byte) :
    crcStep u 0 = u.rotateLeft 1 ^^^ (if u.getLsbD 7 then 0x18 else 0x00) := by
  refine byte_ext ?bitZero fun i hi => ?bitSucc
  case bitZero =>
    rw [getElem_zero_crcStep]
    cases hu : u[7] <;> simp [hu, BitVec.getElem_rotateLeft]
  case bitSucc =>
    have hconst := getElem_succ_closedFormConst hi
    rw [getElem_succ_crcStep u hi]
    cases hu : u[7] <;> simp [hu, hconst, BitVec.getElem_rotateLeft]

/-- Settles O22: the closed form at the byte 0, and the byte XORed in last. -/
theorem crcStepClosedForm : Obligations.CrcStepClosedForm := by
  intro u x
  rw [crcStep_eq_xor, crcStep_zero_closedForm]

/-! ### CrcStep is linear and injective in each argument -/

theorem crcStep_xor_zero (u v : Byte) : crcStep (u ^^^ v) 0 = crcStep u 0 ^^^ crcStep v 0 := by
  refine byte_ext ?bitZero fun i hi => ?bitSucc
  case bitZero => simp only [BitVec.getElem_xor, getElem_zero_crcStep]
  case bitSucc =>
    simp only [BitVec.getElem_xor, getElem_succ_crcStep _ hi, Bool.and_xor_distrib_right, Bool.xor_assoc, Bool.xor_left_comm]

/-- CrcStep is linear in the pair of accumulator and byte. -/
theorem crcStep_xor (u v x y : Byte) : crcStep (u ^^^ v) (x ^^^ y) = crcStep u x ^^^ crcStep v y := by
  rw [crcStep_eq_xor, crcStep_eq_xor u, crcStep_eq_xor v, crcStep_xor_zero]
  ac_rfl

/-- The kernel of CrcStep is trivial: bit 0 of the answer is bit 7, and without bit 7 the other bits only move. -/
theorem eq_zero_of_crcStep_eq_zero (h : crcStep u 0 = 0) : u = 0 := by
  have h7 : u[7] = false := by rw [← getElem_zero_crcStep, h]; rfl
  refine BitVec.eq_of_getElem_eq fun i hi => ?_
  by_cases hi7 : i = 7
  · subst hi7
    simpa using h7
  · have hbit := getElem_succ_crcStep u (i := i) (by omega)
    rw [h, h7, Bool.false_and, Bool.xor_false] at hbit
    simpa using hbit.symm

/-- A linear map with a trivial kernel is injective. -/
theorem crcStep_injective_left (x : Byte) : Function.Injective fun u => crcStep u x := by
  intro u v h
  have hker : crcStep (u ^^^ v) 0 = 0 := calc
    _ = crcStep (u ^^^ v) (x ^^^ x) := congrArg _ BitVec.xor_self.symm
    _ = crcStep u x ^^^ crcStep v x := crcStep_xor u v x x
    _ = 0 := BitVec.xor_eq_zero_iff.mpr h
  exact BitVec.xor_eq_zero_iff.mp (eq_zero_of_crcStep_eq_zero hker)

theorem crcStep_injective_right (u : Byte) : Function.Injective (crcStep u) := by
  intro x y h
  rw [crcStep_eq_xor u x, crcStep_eq_xor u y] at h
  exact (BitVec.xor_right_inj _).mp h

/-! ### Crc -/

/-- The accumulation of R130 is linear in accumulator and bytes together. -/
theorem foldl_crcStep_xor (h : a.length = b.length) (u v : Byte) :
    (List.zipWith (fun x y => x ^^^ y) a b).foldl crcStep (u ^^^ v) = a.foldl crcStep u ^^^ b.foldl crcStep v := by
  induction a generalizing b u v with
  | nil => rw [List.eq_nil_of_length_eq_zero h.symm]; rfl
  | cons x a ih =>
    cases b with
    | nil => cases h
    | cons y b =>
      rw [List.zipWith_cons_cons, List.foldl_cons, crcStep_xor]
      exact ih (Nat.succ.inj h) _ _

/-- Different accumulators stay different over the same bytes. -/
theorem foldl_crcStep_injective (q : List Byte) : Function.Injective fun u => q.foldl crcStep u := by
  induction q with
  | nil => exact Function.injective_id
  | cons x q ih => exact ih.comp (crcStep_injective_left x)

/-- The checksum depends injectively on each byte it covers (R133). -/
theorem crc_append_cons_injective (p q : List Byte) : Function.Injective fun x => crc (p ++ x :: q) := by
  have hcrc : (fun x => crc (p ++ x :: q)) = (fun u => q.foldl crcStep u) ∘ crcStep (crc p) :=
    funext fun x => List.foldl_append
  rw [hcrc]
  exact (foldl_crcStep_injective q).comp (crcStep_injective_right _)

/-! ### CRC_CHECK -/

/-- R131 on a frame given with its last byte. -/
theorem crcAccepts_concat (a : List Byte) (x : Byte) : crcAccepts (a ++ [x]) = some (crc a == x) := by
  rw [crcAccepts_of_pos (by simp), List.dropLast_concat, List.getLastD_concat]

theorem execCrcCheck_of_accepts (hw : cfgWf s.cfg = true) (h : crcAccepts s.work.frame = some true) :
    execCrcCheck s = .next (s.putWork { s.work with crc := crc s.work.frame.dropLast }) := by
  rw [execCrcCheck, guardCfg_of_wf hw, h]

theorem execCrcCheck_of_rejects (hw : cfgWf s.cfg = true) (h : crcAccepts s.work.frame = some false) :
    execCrcCheck s = .next (discard .crcMismatch s) := by
  rw [execCrcCheck, guardCfg_of_wf hw, h]

/-- Settles O23: the two answers of the comparison with the last byte. -/
theorem crcCheckComparesTheLastByte : Obligations.CrcCheckComparesTheLastByte := by
  intro s a x hw hf
  have hcrc : crcAccepts s.work.frame = some (crc a == x) := by rw [hf, crcAccepts_concat]
  refine ⟨fun heq => ?accept, fun hne => ?reject⟩
  case accept =>
    have hdrop : s.work.frame.dropLast = a := by rw [hf, List.dropLast_concat]
    rw [beq_iff_eq.mpr heq] at hcrc
    exact hdrop ▸ execCrcCheck_of_accepts hw hcrc
  case reject =>
    rw [beq_eq_false_iff_ne.mpr hne] at hcrc
    exact execCrcCheck_of_rejects hw hcrc

/-! ### Errors in one byte -/

/-- A frame that differs from an accepted one in one byte is rejected: the byte is the last, which is compared, or the checksum
covers it (R133). -/
theorem crcAccepts_of_byte_ne (h : crcAccepts (p ++ x :: q) = some true) (hne : y ≠ x) :
    crcAccepts (p ++ y :: q) = some false := by
  obtain rfl | ⟨r, z, rfl⟩ := List.eq_nil_or_concat' q
  · rw [crcAccepts_concat, Option.some_inj, beq_iff_eq] at h
    rw [crcAccepts_concat, h, beq_eq_false_iff_ne.mpr hne.symm]
  · rw [← List.cons_append, ← List.append_assoc, crcAccepts_concat] at h ⊢
    rw [Option.some_inj, beq_iff_eq] at h
    rw [← h, beq_eq_false_iff_ne.mpr ((crc_append_cons_injective p r).ne hne)]

theorem crcAccepts_modify {g : Byte → Byte} (h : crcAccepts f = some true) (hi : i < f.length) (hg : g f[i] ≠ f[i]) :
    crcAccepts (f.modify i g) = some false := by
  have hsplit : f = f.take i ++ f[i] :: f.drop (i + 1) := by
    rw [← List.drop_eq_getElem_cons hi, List.take_append_drop]
  rw [List.modify_eq_take_cons_drop hi]
  exact crcAccepts_of_byte_ne (hsplit ▸ h) hg

theorem xor_bit_ne (x : Byte) (hj : j < 8) : x ^^^ (1#8 <<< j) ≠ x := by
  intro h
  have hbit := congrArg (fun y : Byte => y.getLsbD j) h
  simp [hj] at hbit

/-- Settles O24: CrcStep is injective on finitely many bytes and linear, and a flipped bit changes its byte. -/
theorem crcRejectsEverySingleBitError : Obligations.CrcRejectsEverySingleBitError := by
  refine ⟨Finite.injective_iff_bijective.mp (crcStep_injective_left 0), crcStep_xor_zero,
    fun a b h => foldl_crcStep_xor h 0 0, fun s f i j hw hacc hi hj hf => ?_⟩
  have hrej : crcAccepts s.work.frame = some false := hf ▸ crcAccepts_modify hacc hi (xor_bit_ne _ hj)
  exact execCrcCheck_of_rejects hw hrej

end Sys2Proof.Machine

/-!
# Dispatch and conversion

The registry, the discarding `frame_type` rows, the decoders' precondition and ToInt (43_dispatch_conversion.md R150 to R153). A frame
of three bytes or more selects a row, and that row completes.
-/
namespace Sys2Proof.Machine
open Safety

variable {c : Cfg} {s : State} {f : List Byte} {k : Kind} {i : Instr} {e : Event} {b : Byte}

/-! ### The registry -/

theorem registry_eq_some_iff (hw : cfgWf c = true) : registry c b = some k ↔ b = c.typeOf k :=
  ⟨eq_typeOf_of_registry, fun h => h ▸ registry_typeOf hw k⟩

theorem registry_eq_none_iff_forall (hw : cfgWf c = true) : registry c b = none ↔ ∀ k, b ≠ c.typeOf k := by
  rw [Option.eq_none_iff_forall_ne_some]
  exact forall_congr' fun _ => not_congr (registry_eq_some_iff hw)

/-! ### The row a frame selects -/

theorem selectedFrameRow_of_le (h : 3 ≤ s.work.frame.length) :
    selectedFrameRow s = some (decodeFrame s.cfg (s.work.frame.getD 2 0) s.work.frame.length) := by
  rw [selectedFrameRow, frameRead_of_lt h]

theorem selectedFrameRow_of_unregistered (h : 3 ≤ s.work.frame.length)
    (hr : registry s.cfg (s.work.frame.getD 2 0) = none) : selectedFrameRow s = some .frameUnregistered := by
  rw [selectedFrameRow_of_le h, decodeFrame_of_unregistered hr]

theorem selectedFrameRow_of_length_ne (hw : cfgWf s.cfg = true) (h : 3 ≤ s.work.frame.length)
    (ht : s.work.frame.getD 2 0 = s.cfg.typeOf k) (hl : s.work.frame.length ≠ s.cfg.lenOf k) :
    selectedFrameRow s = some .decodePrecond := by
  rw [selectedFrameRow_of_le h, ht, decodeFrame_of_length_ne hw hl]

theorem selectedFrameRow_of_length (hw : cfgWf s.cfg = true) (h : 3 ≤ s.work.frame.length)
    (ht : s.work.frame.getD 2 0 = s.cfg.typeOf k) (hl : s.work.frame.length = s.cfg.lenOf k) :
    selectedFrameRow s = some (kindRow k) := by
  rw [selectedFrameRow_of_le h, ht, hl, decodeFrame_of_length hw]

/-- A discarding row completes where the frame selects it. -/
theorem runDiscardRow_of_selected (hw : cfgWf s.cfg = true) (h : selectedFrameRow s = some i) :
    runDiscardRow i e s = .next (discard e s) := by
  simp only [runDiscardRow, guardCfg_of_wf hw, h, if_true]

/-- Settles O4: under distinct type codes the registry is exact, and a frame it does not know selects FRAME_UNREGISTERED. -/
theorem registrySelectsByTypeCode : Obligations.RegistrySelectsByTypeCode := by
  refine ⟨fun c b hw => ⟨fun k => registry_eq_some_iff hw, registry_eq_none_iff_forall hw⟩, fun s hw h ht => ?discarded⟩
  case discarded =>
    have hr := (registry_eq_none_iff_forall hw).mpr ht
    exact runDiscardRow_of_selected hw (selectedFrameRow_of_unregistered h hr)

/-! ### The decoders' precondition -/

/-- What a decoder makes of a frame that meets its precondition (R140). -/
def kindRecord (c : Cfg) (k : Kind) (f : List Byte) : Option Decoded :=
  match k with
  | .fast => (fastValues c f).map (fastRecord c)
  | .slow => slowRecord c f
  | .dhw => dhwRecord c f
  | .room => roomRecord c f

/-- Every decoder is its precondition and then its record, or the empty record (R150). -/
theorem decodeKind_eq_bind (c : Cfg) (k : Kind) (f : List Byte) :
    decodeKind c k f = (precond c k f).bind fun ok => if ok then kindRecord c k f else some .empty := by
  cases k <;> simp only [decodeKind, decodeFast, decodeSlow, decodeDhw, decodeRoom, kindRecord]
  case fast =>
    obtain _ | _ | _ := precond c .fast f
    · rfl
    · rfl
    · cases fastValues c f <;> rfl
  all_goals obtain _ | _ | _ := precond c _ f <;> rfl

theorem decodeKind_of_precond_false (h : precond c k f = some false) : decodeKind c k f = some .empty := by
  rw [decodeKind_eq_bind, h]
  rfl

/-- The precondition fails on another type byte as on another length. -/
theorem precond_of_ne (h : 3 ≤ f.length) (hne : f.getD 2 0 ≠ c.typeOf k ∨ f.length ≠ c.lenOf k) :
    precond c k f = some false := by
  rw [precond_of_read (frameRead_of_lt h), Option.some_inj, Bool.and_eq_false_iff, beq_eq_false_iff_ne, beq_eq_false_iff_ne]
  exact hne

/-- A decoder whose precondition fails fills no other transient. -/
theorem decodedWork_of_precond_false {w : Work} (h : precond c k w.frame = some false) (r : Decoded) :
    decodedWork c k w r = { w with result := r } := by
  cases k
  case fast => simp only [decodedWork, fastWork, h]
  case slow | dhw | room => rfl

/-- Settles O26: the decoder's precondition fails, and a registered type with another length selects DECODE_PRECOND. -/
theorem failedPreconditionIsDiscarded : Obligations.FailedPreconditionIsDiscarded := by
  refine fun s k hw h => ⟨fun hne => ?empty, fun ht hl => ?discarded⟩
  case empty =>
    have hp := precond_of_ne h hne
    rw [exec_kindRow_of_decodes hw (decodeKind_of_precond_false hp), decodedWork_of_precond_false hp]
    rfl
  case discarded => exact runDiscardRow_of_selected hw (selectedFrameRow_of_length_ne hw h ht hl)

/-! ### ToInt -/

/-- Every width but 1, 2 and 3 gives 0 (R151). -/
theorem toInt_of_other_width {l : List Byte} (h : l.length = 0 ∨ 4 ≤ l.length) : toInt l = 0 := by
  unfold toInt
  split
  · omega
  · omega
  · omega
  · rfl

/-- Settles O27: the whole sequence is the field at offset 0 of its own width, and three bytes stay below `256^3`. -/
theorem toIntIsTheBigEndianSum : Obligations.ToIntIsTheBigEndianSum := by
  refine fun l => ⟨fun h1 h3 => ?sum, toInt_of_other_width⟩
  case sum =>
    have hsum : toInt l = bytesValue l 0 l.length := by
      have h := toInt_drop_take (f := l) (o := 0) (w := l.length) (by omega) h1 h3
      rwa [List.drop_zero, List.take_length] at h
    refine ⟨hsum, ?_⟩
    calc toInt l
      _ = bytesValue l 0 l.length := hsum
      _ < 256 ^ l.length := bytesValue_lt l 0 l.length
      _ ≤ 256 ^ 3 := Nat.pow_le_pow_right (by decide) h3
      _ = 2 ^ 24 := by decide

end Sys2Proof.Machine

/-!
# PROCESS_FRAME and its stages

ProcessFrame (43_dispatch_conversion.md R140) beside the stage rows run one after the other on the field `work` (log entry 5). Both
branch on the same things in the same order: the CRC, the registry, the length. In each branch both end in one `discard` or `deliver`.
-/
namespace Sys2Proof.Machine

variable {s : State} {k : Kind} {w : Work} {ws : List Word} {e : Event}

/-! ### ProcessFrame, branch by branch -/

theorem processFrame_of_crcMismatch (h : crcAccepts (destuff s.work.raw) = some false) :
    processFrame s = .next (discard .crcMismatch s) := by
  simp only [processFrame, h]

section Accepted
variable (hacc : crcAccepts (destuff s.work.raw) = some true) (hlen : 3 ≤ (destuff s.work.raw).length)
include hacc hlen

theorem processFrame_of_unregistered (hr : registry s.cfg ((destuff s.work.raw).getD 2 0) = none) :
    processFrame s = .next (discard .typeUnregistered s) := by
  simp only [processFrame, hacc, frameRead_of_lt hlen, hr]

theorem processFrame_of_empty (hr : registry s.cfg ((destuff s.work.raw).getD 2 0) = some k)
    (hd : decodeKind s.cfg k (destuff s.work.raw) = some .empty) :
    processFrame s = .next (discard .decodePrecond s) := by
  simp only [processFrame, hacc, frameRead_of_lt hlen, hr, hd]

theorem processFrame_of_record (hr : registry s.cfg ((destuff s.work.raw).getD 2 0) = some k)
    (hd : decodeKind s.cfg k (destuff s.work.raw) = some (.record ws e)) :
    processFrame s = .next (deliver ws e s) := by
  simp only [processFrame, hacc, frameRead_of_lt hlen, hr, hd]

end Accepted

/-! ### The row the accepted frame selects -/

theorem kindRow_ne_frameUnregistered (k : Kind) : kindRow k ≠ .frameUnregistered := by cases k <;> nofun

theorem kindRow_ne_decodePrecond (k : Kind) : kindRow k ≠ .decodePrecond := by cases k <;> nofun

@[simp] theorem decodedWork_result (c : Cfg) (k : Kind) (w : Work) (r : Decoded) : (decodedWork c k w r).result = r := by
  cases k <;> rfl

/-- With the accepted frame in progress, some row is selected and completes, and it ends ProcessFrame or leaves the record that
ProcessFrame delivers. -/
theorem selectedFrameRow_ends_processFrame (hw : cfgWf s.cfg = true) (hacc : crcAccepts (destuff s.work.raw) = some true)
    (hlen : 3 ≤ (destuff s.work.raw).length) (hf : w.frame = destuff s.work.raw) :
    ∃ row t, selectedFrameRow (s.putWork w) = some row ∧ exec row (s.putWork w) = .next t ∧
      (row = .frameUnregistered ∨ row = .decodePrecond → processFrame s = .next t) ∧
      (row ≠ .frameUnregistered → row ≠ .decodePrecond →
        ∃ ws e, t.work.result = .record ws e ∧ processFrame s = .next (deliver ws e t)) := by
  have hlen' : 3 ≤ (s.putWork w).work.frame.length := by rwa [State.putWork_work, hf]
  have htype : (s.putWork w).work.frame.getD 2 0 = (destuff s.work.raw).getD 2 0 := by rw [State.putWork_work, hf]
  cases hr : registry s.cfg ((destuff s.work.raw).getD 2 0) with
  | none =>
    have hrow := selectedFrameRow_of_unregistered hlen' (htype ▸ hr)
    exact ⟨_, _, hrow, runDiscardRow_of_selected hw hrow, fun _ => processFrame_of_unregistered hacc hlen hr,
      fun hne => absurd rfl hne⟩
  | some k =>
    have ht := eq_typeOf_of_registry hr
    have hread := (frameRead_of_lt hlen).trans (congrArg some ht)
    by_cases hl : (destuff s.work.raw).length = s.cfg.lenOf k
    · obtain ⟨ws, hd⟩ := decodeKind_of_length hw hread hl
      have hd' := (congrArg (decodeKind s.cfg k) hf).trans hd
      have hrow := selectedFrameRow_of_length (s := s.putWork w) hw hlen' (htype.trans ht) (hf ▸ hl)
      refine ⟨_, _, hrow, exec_kindRow_of_decodes (s := s.putWork w) hw hd', fun h => ?_, fun _ _ => ?_⟩
      · exact absurd h (not_or.mpr ⟨kindRow_ne_frameUnregistered k, kindRow_ne_decodePrecond k⟩)
      · exact ⟨ws, _, decodedWork_result _ _ _ _, processFrame_of_record hacc hlen hr hd⟩
    · have hd := decodeKind_of_length_ne hread hl
      have hrow := selectedFrameRow_of_length_ne (s := s.putWork w) hw hlen' (htype.trans ht) (hf ▸ hl)
      exact ⟨_, _, hrow, runDiscardRow_of_selected hw hrow, fun _ => processFrame_of_empty hacc hlen hr hd,
        fun _ hne => absurd rfl hne⟩

/-- Settles O25: DESTUFF completes, CRC_CHECK ends the frame on a mismatch, and an accepted frame goes to the row it selects. -/
theorem processFrameIsItsStages : Obligations.ProcessFrameIsItsStages := by
  intro s hw hp h f
  have hlen : 3 ≤ f.length := three_le_destuff h
  have hcrc : crcAccepts f = some (crc f.dropLast == f.getLastD 0) := crcAccepts_of_pos (by omega)
  rw [exec_processFrame_of_free hw hp]
  by_cases hc : crc f.dropLast = f.getLastD 0
  · have hacc : crcAccepts f = some true := by rw [hcrc, beq_iff_eq.mpr hc]
    exact ⟨_, _, execDestuff_of_wf hw, execCrcCheck_of_accepts hw hacc, fun hne => absurd hc hne,
      fun _ => selectedFrameRow_ends_processFrame hw hacc hlen rfl⟩
  · have hrej : crcAccepts f = some false := by rw [hcrc, beq_eq_false_iff_ne.mpr hc]
    exact ⟨_, _, execDestuff_of_wf hw, execCrcCheck_of_rejects hw hrej, fun _ => processFrame_of_crcMismatch hrej,
      fun heq => absurd heq hc⟩

end Sys2Proof.Machine

/-!
# What a record depends on

Noninterference of the decoders (43_dispatch_conversion.md R155, R157). A decoder reads the type byte, the length and its fields; by
R155's ranges a well-formed field lies inside the data portion, so two frames that agree there give the same field values.
-/
namespace Sys2Proof.Machine

variable {c : Cfg} {f g : List Byte} {k : Kind} {fld : Field}

/-- A read of bytes on which two frames agree. -/
theorem frameReadN_congr {o n : Nat} (h : ∀ i, o ≤ i → i < o + n → f[i]? = g[i]?) : frameReadN f o n = frameReadN g o n := by
  induction n generalizing o with
  | zero => rfl
  | succ n ih =>
    have hfirst : f[o]? = g[o]? := h o (by omega) (by omega)
    have hrest : frameReadN f (o + 1) n = frameReadN g (o + 1) n := ih fun i _ _ => h i (by omega) (by omega)
    simp only [frameReadN, frameRead, hfirst, hrest]

/-- The precondition reads the type byte and the length alone. -/
theorem precond_congr (hl : f.length = g.length) (h2 : f[2]? = g[2]?) : precond c k f = precond c k g := by
  simp only [precond, frameRead, hl, h2]

theorem length_of_precond (h : precond c k f = some true) : f.length = c.lenOf k := by
  unfold precond at h
  split at h
  · cases h
  · rw [Option.some_inj, Bool.and_eq_true, beq_iff_eq, beq_iff_eq] at h
    exact h.2

section DataPortion
variable {len : Nat} (hdata : ∀ i, 4 ≤ i → i + 1 < len → f[i]? = g[i]?)
include hdata

/-- A well-formed field lies inside the data portion (R155). -/
theorem frameReadN_congr_of_fieldOk (h : fieldOk len fld = true) :
    frameReadN f fld.offset fld.width = frameReadN g fld.offset fld.width := by
  obtain ⟨h4, hlen, -⟩ := fieldOk_bounds h
  exact frameReadN_congr fun i _ _ => hdata i (by omega) (by omega)

theorem conv_congr_of_fieldOk (h : fieldOk len fld = true) : conv f fld = conv g fld := by
  have hread := frameReadN_congr_of_fieldOk hdata h
  unfold conv
  cases hk : fld.kind with
  | int => simp only [hread]
  | scaled n => simp only [hread]
  | chars2 =>
    obtain ⟨h4, hlen, -, -, hkind⟩ := fieldOk_bounds h
    have hw : fld.width = 2 := width_of_chars2 hkind hk
    have h0 : f[fld.offset]? = g[fld.offset]? := hdata _ (by omega) (by omega)
    have h1 : f[fld.offset + 1]? = g[fld.offset + 1]? := hdata _ (by omega) (by omega)
    simp only [frameRead, h0, h1]

theorem conv_congr_of_plain (h : plainFieldOk len fld = true) : conv f fld = conv g fld :=
  conv_congr_of_fieldOk hdata (of_decide_eq_true h).1

end DataPortion

/-- A record reads the data portion alone, kind by kind: every field of the layout is well-formed (R155, R156). -/
theorem kindRecord_congr (hw : cfgWf c = true) (hdata : ∀ i, 4 ≤ i → i + 1 < c.lenOf k → f[i]? = g[i]?) :
    kindRecord c k f = kindRecord c k g := by
  obtain ⟨-, -, hfast, hslow, hdhw, hroom, -⟩ := cfgWf_parts hw
  have plain {fld : Field} (h : plainFieldOk (c.lenOf k) fld = true) := conv_congr_of_plain hdata h
  have field {fld : Field} (h : fieldOk (c.lenOf k) fld = true) := conv_congr_of_fieldOk hdata h
  cases k with
  | fast =>
    obtain ⟨h1, h2, -, h3, h4, h5, h6, -, h7, h8, h9, -, h10⟩ := of_decide_eq_true hfast
    simp only [kindRecord, fastValues, plain h1, plain h2, plain h3, plain h4, plain h5, plain h6, plain h7, plain h8,
      field h9, plain h10]
  | slow =>
    obtain ⟨h1, h2, h3, h4, -, h5, -⟩ := of_decide_eq_true hslow
    simp only [kindRecord, slowRecord, plain h1, plain h2, plain h3, field h4, field h5]
  | dhw =>
    obtain ⟨h1, h2, h3⟩ := of_decide_eq_true hdhw
    simp only [kindRecord, dhwRecord, plain h1, plain h2, plain h3]
  | room =>
    obtain ⟨h1, hw1, -, h2, hw2, -⟩ := of_decide_eq_true hroom
    have hsetpoint := frameReadN_congr_of_fieldOk hdata h1
    have hactual := frameReadN_congr_of_fieldOk hdata h2
    rw [hw1] at hsetpoint
    rw [hw2] at hactual
    simp only [kindRecord, roomRecord, hsetpoint, hactual]

/-- Settles O40: the precondition agrees on the two frames, and where it holds the length is the kind's, so the record agrees too. -/
theorem headerBytesReachNoRecord : Obligations.HeaderBytesReachNoRecord := by
  intro c k f g hw hl h2 hdata
  rw [decodeKind_eq_bind, decodeKind_eq_bind, ← precond_congr hl h2]
  refine Option.bind_congr fun ok hok => ?_
  cases ok with
  | false => rfl
  | true => exact kindRecord_congr hw (length_of_precond hok ▸ hdata)

end Sys2Proof.Machine

/-!
# The typed decoders

The records of the four decoders (44_decoders.md R160, R170, R175, R178) as words of the field values, the status lookups
(R165, R166) and the efficiency (R180, R181). A decoder row on a frame of its type and length leaves the record of its fields, and on
any other frame the empty record.
-/
namespace Sys2Proof.Machine
open Safety

variable {c : Cfg} {s : State} {f : List Byte} {k : Kind} {code : Half} {text : String} {temp : Nat}

/-! ### Status lookups -/

theorem statusKnown_eq_true_iff : statusKnown c code = true ↔ ∃ text, (code, text) ∈ c.statusTable := by
  simp [statusKnown]

theorem statusKnown_eq_false_iff : statusKnown c code = false ↔ ∀ text, (code, text) ∉ c.statusTable := by
  rw [← Bool.not_eq_true, statusKnown_eq_true_iff, not_exists]

/-- The text of a code is the second part of the first entry with that code (R165). -/
theorem statusText_eq_map (c : Cfg) (code : Half) :
    statusText c code = (c.statusTable.find? fun e => e.1 == code).map Prod.snd := by
  unfold statusText
  cases c.statusTable.find? fun e => e.1 == code <;> rfl

theorem mem_statusTable_of_statusText (h : statusText c code = some text) : (code, text) ∈ c.statusTable := by
  rw [statusText_eq_map, Option.map_eq_some_iff] at h
  obtain ⟨⟨key, _⟩, hfind, rfl⟩ := h
  obtain rfl : key = code := by simpa using List.find?_some hfind
  exact List.mem_of_find?_eq_some hfind

theorem statusText_eq_none_iff : statusText c code = none ↔ statusKnown c code = false := by
  rw [statusText_eq_map, Option.map_eq_none_iff, List.find?_eq_none, statusKnown, List.any_eq_false]

/-- Settles O36: membership by the table search of each lookup. -/
theorem statusKnownIsTableMembership : Obligations.StatusKnownIsTableMembership := fun _ _ =>
  ⟨statusKnown_eq_true_iff, fun _ => mem_statusTable_of_statusText, statusText_eq_none_iff⟩

/-- A code that is not one of R166's two special ones is idle or absent, by the table. -/
theorem sysStatus_of_ordinary (h1 : code ≠ 0x2D48) (h2 : code ≠ 0x3D48) :
    sysStatus c code = if statusKnown c code then (true, sysIdle) else (false, 0) :=
  (if_neg h1).trans (if_neg h2)

/-- Settles O37: the two special codes come first, and the table decides the others. -/
theorem systemStatusOfTheCode : Obligations.SystemStatusOfTheCode := by
  refine fun c code => ⟨rfl, rfl, fun h1 h2 => ⟨fun hkey => ?idle, fun hkey => ?absent⟩⟩
  case idle => rw [sysStatus_of_ordinary h1 h2, statusKnown_eq_true_iff.mpr hkey]; rfl
  case absent => rw [sysStatus_of_ordinary h1 h2, statusKnown_eq_false_iff.mpr hkey]; rfl

/-! ### Efficiency -/

theorem effOutOfDomain_eq_true_iff : effOutOfDomain temp = true ↔ temp < 1000 ∨ 10000 ≤ temp := by
  simp [effOutOfDomain]

theorem effOutOfDomain_eq_false_iff : effOutOfDomain temp = false ↔ 1000 ≤ temp ∧ temp < 10000 := by
  simp [effOutOfDomain]

theorem efficiency_of_outOfDomain (h : effOutOfDomain temp = true) : efficiency c temp = (0, true) := if_pos h

/-- A key of the domain has an entry at its place in the list, below `2^24` (R6, R48). -/
theorem exists_effTable_entry (hw : cfgWf c = true) {i : Nat} (h1 : 10 ≤ i) (h2 : i ≤ 100) :
    ∃ e, c.effTable[i - 10]? = some e ∧ effEntry c i = some e ∧ e < 2 ^ 24 := by
  obtain ⟨e, he⟩ := effEntry_of_domain hw h1 h2
  have hat : c.effTable[i - 10]? = some e := by rwa [effEntry, if_neg (by omega)] at he
  obtain ⟨-, -, -, -, -, -, heff⟩ := cfgWf_parts hw
  obtain ⟨-, hall, -⟩ := of_decide_eq_true heff
  exact ⟨e, hat, he, of_decide_eq_true (List.all_eq_true.mp hall e (List.mem_of_getElem? hat))⟩

/-- The value `fr` hundredths of the way from `lo` to `hi`, in hundredths of their unit (R180). -/
def interpolation (lo hi fr : Nat) : Int := (lo : Int) * 100 + (fr : Int) * ((hi : Int) - lo)

theorem efficiency_of_entries {lo hi : Nat} (hd : effOutOfDomain temp = false) (hlo : effEntry c (temp / 100) = some lo)
    (hhi : effEntry c (temp / 100 + 1) = some hi) : efficiency c temp = (interpolation lo hi (temp % 100), false) := by
  simp [efficiency, interpolation, hd, hlo, hhi]

/-- An interpolation lies between its ends, whichever is the greater. -/
theorem interpolation_mem {lo hi fr : Nat} (hfr : fr ≤ 100) :
    (min lo hi : Int) * 100 ≤ interpolation lo hi fr ∧ interpolation lo hi fr ≤ (max lo hi : Int) * 100 := by
  have hfr' : (fr : Int) ≤ 100 := by exact_mod_cast hfr
  unfold interpolation
  obtain h | h := le_total (lo : Int) hi
  · have hpos := mul_nonneg (Int.natCast_nonneg fr) (sub_nonneg.mpr h)
    have hle := mul_le_mul_of_nonneg_right hfr' (sub_nonneg.mpr h)
    rw [min_eq_left h, max_eq_right h]
    constructor <;> linarith
  · have hneg := mul_nonpos_of_nonneg_of_nonpos (Int.natCast_nonneg fr) (sub_nonpos.mpr h)
    have hle := mul_le_mul_of_nonpos_right hfr' (sub_nonpos.mpr h)
    rw [min_eq_right h, max_eq_left h]
    constructor <;> linarith

/-- Between entries below `2^24` an interpolation fits a word. -/
theorem toNat_signedWord_interpolation {lo hi fr : Nat} (hfr : fr ≤ 100) (hlo : lo < 2 ^ 24) (hhi : hi < 2 ^ 24) :
    (signedWord (interpolation lo hi fr)).toNat = (interpolation lo hi fr).toNat := by
  obtain ⟨hmin, hmax⟩ := interpolation_mem (lo := lo) (hi := hi) hfr
  rw [signedWord, BitVec.toNat_ofInt, Int.emod_eq_of_lt (by omega) (by omega)]

theorem execEfficiency_of_wf (hw : cfgWf s.cfg = true) :
    execEfficiency s = .next (s.putWork { s.work with
      eff := signedWord (efficiency s.cfg s.work.temp).1, effError := (efficiency s.cfg s.work.temp).2 }) :=
  guardCfg_of_wf hw _

theorem execEfficiencyDomainError_of_outOfDomain (hw : cfgWf s.cfg = true) (h : effOutOfDomain s.work.temp = true) :
    execEfficiencyDomainError s = .next (s.putWork { s.work with eff := 0, effError := true }) :=
  (guardCfg_of_wf hw _).trans (if_pos h)

/-- Settles O38: the domain's error outside, the interpolation of two present entries inside. -/
theorem efficiencyInterpolates : Obligations.EfficiencyInterpolates := by
  refine fun s hw => ⟨fun hout => ?outside, fun h1 h2 => ?inside⟩
  case outside =>
    rw [exec, execEfficiency_of_wf hw, efficiency_of_outOfDomain (effOutOfDomain_eq_true_iff.mpr hout)]
    rfl
  case inside =>
    obtain ⟨lo, hloAt, hlo, hlo24⟩ := exists_effTable_entry hw (i := s.work.temp / 100) (by omega) (by omega)
    obtain ⟨hi, hhiAt, hhi, hhi24⟩ := exists_effTable_entry hw (i := s.work.temp / 100 + 1) (by omega) (by omega)
    have hfr : s.work.temp % 100 ≤ 100 := by omega
    obtain ⟨hmin, hmax⟩ := interpolation_mem (lo := lo) (hi := hi) hfr
    refine ⟨lo, hi, hloAt, hhiAt, ?row, hmin, hmax, toNat_signedWord_interpolation hfr hlo24 hhi24⟩
    case row =>
      rw [exec, execEfficiency_of_wf hw, efficiency_of_entries (effOutOfDomain_eq_false_iff.mpr ⟨h1, h2⟩) hlo hhi]
      rfl

/-! ### Signed differences -/

/-- A difference of two values below the sign bit is exact as a signed word (R75). -/
theorem toInt_signedWord_sub {a b : Nat} (ha : a < 2 ^ 31) (hb : b < 2 ^ 31) :
    (signedWord ((a : Int) - b)).toInt = (a : Int) - b := by
  rw [signedWord, BitVec.toInt_ofInt, Int.bmod_eq_of_le (by omega) (by omega)]

/-- An unscaled field has at most three bytes. -/
theorem fieldValue_lt_of_int {fld : Field} {len : Nat} (h : fieldOk len fld = true) (hk : fld.kind = .int) :
    fieldValue f fld < 2 ^ 24 := by
  obtain ⟨-, -, -, h3, -⟩ := fieldOk_bounds h
  rw [fieldValue, hk]
  calc bytesValue f fld.offset fld.width
    _ < 256 ^ fld.width := bytesValue_lt f fld.offset fld.width
    _ ≤ 256 ^ 3 := Nat.pow_le_pow_right (by decide) h3
    _ = 2 ^ 24 := by decide

/-- Settles O30: every field stays below the sign bit, and the two runtimes are unscaled. -/
theorem derivedDifferencesAreExact : Obligations.DerivedDifferencesAreExact := by
  intro c f hw
  obtain ⟨-, -, hfast, hslow, -⟩ := cfgWf_parts hw
  obtain ⟨-, hflow, -, -, -, -, hreturn, -⟩ := of_decide_eq_true hfast
  obtain ⟨-, -, -, hburner, hburnerInt, hheating, hheatingInt⟩ := of_decide_eq_true hslow
  have hb : fieldValue f c.layout.slow.burnerRuntime < 2 ^ 24 := fieldValue_lt_of_int hburner hburnerInt
  have hh : fieldValue f c.layout.slow.heatingRuntime < 2 ^ 24 := fieldValue_lt_of_int hheating hheatingInt
  exact ⟨toInt_signedWord_sub (fieldValue_lt (of_decide_eq_true hflow).1) (fieldValue_lt (of_decide_eq_true hreturn).1),
    toInt_signedWord_sub (fieldValue_lt hburner) (fieldValue_lt hheating), by omega, by omega⟩

/-! ### The decoder rows -/

/-- On a frame of another type or length a decoder row leaves the empty record (R150). -/
theorem exec_kindRow_of_other (hw : cfgWf s.cfg = true) (h : 3 ≤ s.work.frame.length)
    (hne : s.work.frame.getD 2 0 ≠ s.cfg.typeOf k ∨ s.work.frame.length ≠ s.cfg.lenOf k) :
    exec (kindRow k) s = .next (s.putWork { s.work with result := .empty }) :=
  (failedPreconditionIsDiscarded s k hw h).1 hne

/-- On a frame of its type and length a decoder row leaves the record of the frame's fields. -/
theorem exec_kindRow_of_own {r : Decoded} (hw : cfgWf s.cfg = true) (h : 3 ≤ s.work.frame.length)
    (ht : s.work.frame.getD 2 0 = s.cfg.typeOf k) (hl : s.work.frame.length = s.cfg.lenOf k)
    (hr : kindRecord s.cfg k s.work.frame = some r) :
    exec (kindRow k) s = .next (s.putWork (decodedWork s.cfg k s.work r)) := by
  have hp := precond_of_length ((frameRead_of_lt h).trans (congrArg some ht)) hl
  exact exec_kindRow_of_decodes hw (by rw [decodeKind_eq_bind, hp]; exact hr)

/-- Settles O32: the record's header is the literal word. -/
theorem slowFrameRecord : Obligations.SlowFrameRecord := fun _ hw h =>
  ⟨exec_kindRow_of_other (k := .slow) hw h,
    fun ht hl => exec_kindRow_of_own (k := .slow) hw h ht hl (slowRecord_of_length hw hl)⟩

/-- Settles O33: the record's header is the literal word. -/
theorem dhwFrameRecord : Obligations.DhwFrameRecord := fun _ hw h =>
  ⟨exec_kindRow_of_other (k := .dhw) hw h,
    fun ht hl => exec_kindRow_of_own (k := .dhw) hw h ht hl (dhwRecord_of_length hw hl)⟩

/-- Settles O34: one byte is its own value, and two are the big-endian pair. -/
theorem roomFrameRecord : Obligations.RoomFrameRecord := by
  refine fun s hw h => ⟨exec_kindRow_of_other (k := .room) hw h, fun ht hl => ?own⟩
  case own =>
    have hr := roomRecord_of_length hw hl
    simp only [bytesValue_succ, bytesValue_zero, Nat.zero_mul, Nat.zero_add, Nat.add_zero] at hr
    exact exec_kindRow_of_own (k := .room) hw h ht hl hr

/-! ### FRAME_FAST -/

/-- The field values of a FAST frame in record order (R156, R160). -/
def fastFieldValues (c : Cfg) (f : List Byte) : FastValues :=
  { w1 := fieldValue f c.layout.fast.requestedFlowTemperature
    w2 := fieldValue f c.layout.fast.flowTemperature
    w3 := fieldValue f c.layout.fast.requestedBurnerPower
    w4 := fieldValue f c.layout.fast.actualBurnerPower
    w5 := fieldValue f c.layout.fast.boilerTemperature
    w6 := fieldValue f c.layout.fast.flowReturnTemperature
    w7 := fieldValue f c.layout.fast.ionisationCurrent
    w8 := fieldValue f c.layout.fast.pressure
    code := BitVec.ofNat 16 (fieldValue f c.layout.fast.statusCode)
    w10 := fieldValue f c.layout.fast.errorCode }

theorem fastValues_eq_fastFieldValues (hw : cfgWf c = true) (hl : f.length = lenFast) :
    fastValues c f = some (fastFieldValues c f) :=
  fastValues_of_length hw hl

/-- Two characters fit 16 bits. -/
theorem fieldValue_lt_of_isChars2 {fld : Field} (h : isChars2 fld = true) : fieldValue f fld < 2 ^ 16 := by
  unfold isChars2 at h
  unfold fieldValue
  cases hk : fld.kind with
  | int | scaled _ => rw [hk] at h; cases h
  | chars2 => exact bytesValue_lt f fld.offset 2

/-- The status code's word is its field's value (R71, R154). -/
theorem setWidth_fastFieldValues_code (hw : cfgWf c = true) (f : List Byte) :
    (fastFieldValues c f).code.setWidth 32 = BitVec.ofNat 32 (fieldValue f c.layout.fast.statusCode) := by
  obtain ⟨-, -, hfast, -⟩ := cfgWf_parts hw
  obtain ⟨-, -, -, -, -, -, -, -, -, -, -, hchars, -⟩ := of_decide_eq_true hfast
  exact BitVec.setWidth_ofNat_of_le_of_lt (by decide) (fieldValue_lt_of_isChars2 hchars)

/-- On a FAST frame the row leaves the record and, beside it, the temperature and its efficiency (log entry 5). -/
theorem exec_frameFast_of_own {v : FastValues} (hw : cfgWf s.cfg = true) (ht : s.work.frame.getD 2 0 = s.cfg.typeFast)
    (hl : s.work.frame.length = 30) (hv : v = fastFieldValues s.cfg s.work.frame) :
    exec .frameFast s = .next (s.putWork { s.work with
      temp := v.w6, eff := signedWord (efficiency s.cfg v.w6).1, effError := (efficiency s.cfg v.w6).2,
      result := fastRecord s.cfg v }) := by
  have h3 : 3 ≤ s.work.frame.length := by omega
  have hp : precond s.cfg .fast s.work.frame = some true :=
    precond_of_length ((frameRead_of_lt h3).trans (congrArg some ht)) hl
  have hvalues : fastValues s.cfg s.work.frame = some v := hv ▸ fastValues_eq_fastFieldValues hw hl
  have hr : kindRecord s.cfg .fast s.work.frame = some (fastRecord s.cfg v) := by rw [kindRecord, hvalues, Option.map_some]
  have hwork : decodedWork s.cfg .fast s.work (fastRecord s.cfg v) = { s.work with
      temp := v.w6, eff := signedWord (efficiency s.cfg v.w6).1, effError := (efficiency s.cfg v.w6).2,
      result := fastRecord s.cfg v } := by
    simp only [decodedWork, fastWork, hp, hvalues]
  rw [← hwork]
  exact exec_kindRow_of_own (k := .fast) hw h3 ht hl hr

/-- Settles O31: the row's answer, with its record written out. -/
theorem fastFrameRecord : Obligations.FastFrameRecord := by
  refine fun s hw h => ⟨exec_kindRow_of_other (k := .fast) hw h, fun ht hl => ?own⟩
  case own =>
    rw [exec_frameFast_of_own hw ht hl rfl, fastRecord, setWidth_fastFieldValues_code hw]
    rfl

/-- Settles O39: outside the domain the efficiency is 0 with the error bit, and the rest of the record does not depend on it. -/
theorem efficiencyDomainErrorIsReported : Obligations.EfficiencyDomainErrorIsReported := by
  refine ⟨fun s hw hout => execEfficiencyDomainError_of_outOfDomain hw (effOutOfDomain_eq_true_iff.mpr hout), ?record⟩
  case record =>
    intro s hw hl ht v l hout
    have heff : efficiency s.cfg (fastFieldValues s.cfg s.work.frame).w6 = (0, true) :=
      efficiency_of_outOfDomain (effOutOfDomain_eq_true_iff.mpr hout)
    let code : Half := BitVec.ofNat 16 (v l.statusCode)
    refine ⟨_, header 1 (statusKnown s.cfg code) (sysStatus s.cfg code).1 (sysStatus s.cfg code).2 true 12,
      exec_frameFast_of_own hw ht hl rfl, ?words, tagOf_header .., knownOf_header .., presentOf_header ..,
      valueOf_header .., effErrorOf_header .., nwordsOf_header .., header_and_zeroMask ..⟩
    case words =>
      rw [State.putWork_work, fastRecord, setWidth_fastFieldValues_code hw, heff]
      rfl

end Sys2Proof.Machine

/-!
# Events and the entry at a break

The codes (60_exceptions.md R201), what the step that confirms a break writes (R205, R206), the event it reports (R203), and the two
facts about every step: exactly the break steps raise an event (R200), and from a state with the invariant nothing stops the machine
(R202, R211).
-/
namespace Sys2Proof.Machine
open Safety

variable {c : Cfg} {s t u : State} {f : List Byte} {k : Kind} {ws : List Word} {e : Event} {i : Instr} {b : Byte}

/-! ### Every step answers -/

/-- The row the decode map selects for a byte completes; a break completes because every stage of the pipeline does (R46). -/
theorem exists_exec_of_decodeByte (hw : cfgWf s.cfg = true) (hp : s.pendValid = false) (hd : decodeByte s.sync b = .ok i) :
    ∃ t, exec i s = .next t := by
  obtain ⟨hs, rfl, rfl⟩ | ⟨hs, hb, rfl⟩ | ⟨hs, rfl, rfl⟩ | ⟨hs, hb, rfl⟩ | ⟨hs, rfl, rfl⟩ | ⟨hs, hb, rfl⟩ :=
    decodeByte_ok_cases hd
  · exact ⟨_, exec_syncNFf_of_normal hw hp hs⟩
  · exact ⟨_, exec_syncNLit_of_normal hw hp hs hb⟩
  · exact ⟨_, exec_syncF00_of_sawFf hw hp hs⟩
  · exact ⟨_, exec_syncFLit_of_sawFf hw hp hs hb⟩
  · obtain ⟨t, _, ht, _⟩ := exists_breakFrame (s := s.putSync .normal) hw
    exact ⟨t, (exec_syncFzBrk_of_sawFf00 hw hp hs).trans ht⟩
  · exact ⟨_, exec_syncFzLit_of_sawFf00 hw hp hs hb⟩

/-- With an empty output slot and no reset, a step takes the offered byte or waits (R33, R108). -/
theorem exists_step_of_free (hw : cfgWf s.cfg = true) (hs : s.sync ≠ .reserved) (hr : (driveNow s).rst = false)
    (hp : s.pendValid = false) : ∃ t, step s = .next t := by
  have hfetch : fetch s = fetchByte s := fetch_of_noHandshake hw hr (.inl hp)
  cases hv : (driveNow s).inValid with
  | false => exact ⟨_, step_of_fetch_idle (hfetch.trans (fetchByte_of_noOffer (.inl hv)))⟩
  | true =>
    cases hsrc : s.source with
    | nil => exact ⟨_, step_of_fetch_idle (hfetch.trans (fetchByte_of_noOffer (.inr hsrc)))⟩
    | cons b bs =>
      obtain ⟨i, hd⟩ := exists_decodeByte hs b
      obtain ⟨t, ht⟩ := exists_exec_of_decodeByte (s := s.beginStep.putSource bs) hw hp hd
      exact ⟨t, (step_of_offered ⟨hw, hp, hr, hv, hsrc⟩ hd).trans ht⟩

/-- With a record waiting and no reset, a step hands it over or waits (R33, R34). -/
theorem exists_step_of_pending (hw : cfgWf s.cfg = true) (hr : (driveNow s).rst = false) (hp : s.pendValid = true) :
    ∃ t, step s = .next t := by
  cases hy : (driveNow s).recReady with
  | false => exact ⟨_, step_of_stalled hw hp hr hy⟩
  | true => exact ⟨_, (step_of_fetch_run (fetch_of_take hw hr hp hy)).trans (sinkTakesTheRecord s.beginStep hw hp)⟩

/-- Settles O49, by the ports: reset completes, a waiting record is handed over or stalls the step, and with an empty slot the
invariant's named synchronizer state has a row for every byte. -/
theorem nothingStopsTheMachine : Obligations.NothingStopsTheMachine := by
  intro s hw hi
  obtain ⟨_, _, hs, _⟩ := hi
  cases hr : (driveNow s).rst with
  | true =>
    obtain ⟨t, ht, _⟩ := resetRowRestoresTheResetValues s.beginStep hw
    exact ⟨t, (step_of_fetch_run (fetch_of_rst hw hr)).trans ht⟩
  | false =>
    cases hp : s.pendValid with
    | true => exact exists_step_of_pending hw hr hp
    | false => exact exists_step_of_free hw hs hr hp

/-! ### The entry at a break -/

theorem isDiscard_recordEvent (c : Cfg) (k : Kind) (f : List Byte) : isDiscard (recordEvent c k f) = false := by
  unfold recordEvent
  split <;> rfl

theorem isDiscard_of_not_decoded (h : e ≠ .decoded) (h' : e ≠ .decodedEffError) : isDiscard e = true := by
  cases e with
  | decoded => exact absurd rfl h
  | decodedEffError => exact absurd rfl h'
  | frameShort | frameOverflow | crcMismatch | typeUnregistered | decodePrecond => rfl

theorem frameRead_of_precond (h : precond c k f = some true) : frameRead f 2 = some (c.typeOf k) := by
  cases hread : frameRead f 2 with
  | none => simp [precond, hread] at h
  | some b =>
    rw [precond_of_read hread, Option.some_inj, Bool.and_eq_true, beq_iff_eq] at h
    rw [h.1]

/-- A decoder makes a record of a frame that meets its precondition only, so the record's event is the kind's (R140, R181). -/
theorem event_of_decodeKind (hw : cfgWf c = true) (h : decodeKind c k f = some (.record ws e)) : e = recordEvent c k f := by
  have hp : precond c k f = some true := by
    rw [decodeKind_eq_bind] at h
    obtain ⟨_ | _, hok, h⟩ := Option.bind_eq_some_iff.mp h
    · cases h
    · exact hok
  obtain ⟨ws', hd⟩ := decodeKind_of_length hw (frameRead_of_precond hp) (length_of_precond hp)
  cases h.symm.trans hd
  rfl

/-- Settles O15: Break answers, and its answer is a discard that leaves the slot (R205) or the delivery of a decoder's record
(R206), each after the next frame is started. -/
theorem breakEntryIsDiscardOrEmission : Obligations.BreakEntryIsDiscardOrEmission := by
  intro s hw hp hs
  obtain ⟨t, _, ht, _⟩ := exists_breakFrame (s := s.putSync .normal) hw
  rw [exec_syncFzBrk_of_sawFf00 hw hp hs]
  obtain ⟨e, hne, hne', rfl⟩ | ⟨k, ws, e, hd, rfl⟩ := breakFrame_cases ht
  · have hdiscard : isDiscard e = true := isDiscard_of_not_decoded hne hne'
    exact ⟨_, e, ht, rfl, fun _ => ⟨hp, rfl⟩, fun h => absurd hdiscard (Bool.eq_false_iff.mp h)⟩
  · have hemit : isDiscard e = false := by rw [event_of_decodeKind hw hd, isDiscard_recordEvent]
    exact ⟨_, e, ht, rfl, fun h => absurd h (Bool.eq_false_iff.mp hemit), fun _ => ⟨rfl, recordOk_of_decodeKind hd, rfl⟩⟩

/-- Settles O16: with an empty slot BREAK is Break, whose stages in their order are the priority order. -/
theorem eventFollowsThePriorityOrder : Obligations.EventFollowsThePriorityOrder := by
  intro s hw hp
  rw [exec_brk_of_free hw hp]
  exact breakFrame_event hw

/-! ### One event per confirmed break -/

/-- Of the selected operations SYNC_FZ_BRK alone confirms a break (R103). -/
theorem breakStep_iff_of_fetch_run (h : fetch s = .run i u) : breakStep s ↔ i = .syncFzBrk := by
  constructor
  · rintro ⟨v, hv⟩
    cases h.symm.trans hv
    rfl
  · rintro rfl
    exact ⟨u, h⟩

theorem not_breakStep_of_fetch_idle (h : fetch s = .idle u) : ¬ breakStep s := by
  rintro ⟨v, hv⟩
  cases h.symm.trans hv

/-- Settles O50, by what the step selects: the event port is quiet when an operation begins, and of the operations a step selects
only SYNC_FZ_BRK writes it. -/
theorem oneEventPerConfirmedBreak : Obligations.OneEventPerConfirmedBreak := by
  intro s t h
  obtain ⟨hf, rfl⟩ | ⟨i, u, hf, h⟩ := step_next_cases h
  · exact ⟨fun hb => absurd hb (not_breakStep_of_fetch_idle hf), fun _ => ⟨rfl, rfl⟩⟩
  · rw [breakStep_iff_of_fetch_run hf]
    obtain ⟨_, ⟨_, rfl, rfl⟩ | ⟨_, _, _, rfl, rfl⟩ | ⟨_, _, _, b, bs, _, hd, rfl⟩⟩ := fetch_run_cases hf
    · obtain ⟨_, rfl⟩ := execReset_next h
      exact ⟨nofun, fun _ => ⟨rfl, rfl⟩⟩
    · obtain ⟨_, _, rfl⟩ := execSinkTake_next h
      exact ⟨nofun, fun _ => ⟨rfl, rfl⟩⟩
    · obtain rfl | hrow := decodeByte_brk_or_byteRow hd
      · obtain ⟨_, _, _, h⟩ := execSyncFzBrk_next h
        have hone := breakFrame_one_event h
        exact ⟨fun _ => hone, fun hne => absurd rfl hne⟩
      · have hne : i ≠ .syncFzBrk := by
          rintro rfl
          simp at hrow
        obtain ⟨hframe, -⟩ := byteRowsTouchOnlyTheSynchronizer _ t i b hrow h
        rw [hframe]
        exact ⟨fun hi => absurd hi hne, fun _ => ⟨rfl, rfl⟩⟩

/-! ### The codes -/

/-- R201's table read from the codes: 0 and 8 to 15 are reserved (R66). -/
def eventOfCode : BitVec 4 → Option Event
  | 1 => some .frameShort
  | 2 => some .frameOverflow
  | 3 => some .crcMismatch
  | 4 => some .typeUnregistered
  | 5 => some .decodePrecond
  | 6 => some .decoded
  | 7 => some .decodedEffError
  | _ => none

theorem eventOfCode_eventCode (e : Event) : eventOfCode (eventCode e) = some e := by cases e <;> rfl

theorem eventCode_injective : Function.Injective eventCode := fun e e' h =>
  Option.some.inj (by rw [← eventOfCode_eventCode e, h, eventOfCode_eventCode e'])

theorem eventCode_not_reserved (e : Event) : eventCode e ≠ 0 ∧ (eventCode e).toNat < 8 := by cases e <;> decide

/-- Settles O5: the two tables read off, and the event table read backwards. -/
theorem codesOfStatesAndEvents : Obligations.CodesOfStatesAndEvents :=
  ⟨⟨rfl, rfl, rfl, rfl, rfl, rfl, rfl⟩, eventCode_not_reserved, fun _ _ h => eventCode_injective h, rfl, rfl, rfl, rfl⟩

end Sys2Proof.Machine

/-!
# Reset and runs

The state after reset (70_reset_and_hazards.md R220), a machine whose run has ended (R228), and the steps in which nothing comes at
the ports (R227). A step reads of the plan only its own levels and does not read the event port, so a waiting step, which writes
nothing else, can be left out of a run.
-/
namespace Sys2Proof.Machine
open Safety

variable {s t : State} {d : Drive} {plan : List Drive}

/-! ### After reset and after the end of a run -/

/-- Settles O46: the reset state's fields read off, and the check of the test configuration run. -/
theorem resetLeavesTheResetValues : Obligations.ResetLeavesTheResetValues :=
  ⟨fun _ => ⟨rfl, rfl, rfl, rfl, rfl, rfl⟩, rfl, by decide⟩

theorem runEnded_iff : runEnded s = true ↔ s.source = [] ∧ s.pendValid = false := by simp [runEnded]

/-- With no levels planned a step has none to use up. -/
theorem beginStep_of_quiet (hd : s.drive = []) : s.beginStep = { s with evt := none } := by
  rw [State.beginStep, hd, List.tail_nil, ← hd]

/-- Settles O56: the quiet levels bring no reset, and the Byte Source has no byte to offer. -/
theorem endedRunWaits : Obligations.EndedRunWaits := by
  intro s hw hd hend
  obtain ⟨hsrc, hp⟩ := runEnded_iff.mp hend
  have hrst : (driveNow s).rst = false := by rw [driveNow, hd]; rfl
  have hstep : step s = .next { s with evt := none } := by
    rw [← beginStep_of_quiet hd]
    exact step_of_fetch_idle ((fetch_of_noHandshake hw hrst (.inl hp)).trans (fetchByte_of_noOffer (.inr hsrc)))
  refine ⟨hstep, fun t ht => ?_⟩
  cases hstep.symm.trans ht
  exact ⟨rfl, hend⟩

/-! ### What a step reads of the plan and of the event port -/

/-- What a step selects, with another plan for the steps after it. -/
def Fetched.withPlan (plan : List Drive) : Fetched → Fetched
  | .run i s => .run i (s.withPlan plan)
  | .idle s => .idle (s.withPlan plan)
  | .fault r => .fault r
  | .refused r => .refused r

theorem fetchByte_withPlan (hd : driveNow (s.withPlan plan) = driveNow s) :
    fetchByte (s.withPlan plan) = (fetchByte s).withPlan plan.tail := by
  have hready : inReady (s.withPlan plan) = inReady s := by rw [inReady, hd]; rfl
  have hoffer : inOffer (s.withPlan plan) = inOffer s := by rw [inOffer, hd]; rfl
  unfold fetchByte
  rw [hready, hoffer, State.withPlan_sync]
  split
  · split <;> rfl
  · rfl

/-- Of the plan, the choice of an operation reads the coming step's levels alone. -/
theorem fetch_withPlan (hd : driveNow (s.withPlan plan) = driveNow s) :
    fetch (s.withPlan plan) = (fetch s).withPlan plan.tail := by
  have hvalid : recValid (s.withPlan plan) = recValid s := by rw [recValid, hd]; rfl
  unfold fetch
  rw [hd, hvalid, fetchByte_withPlan hd, State.withPlan_cfg]
  split
  · split <;> rfl
  · rfl

/-- A step under another plan with the same levels for it ends in the same state, up to the rest of the plan. -/
theorem step_withPlan (hd : driveNow (s.withPlan plan) = driveNow s) (h : step s = .next t) :
    step (s.withPlan plan) = .next (t.withPlan plan.tail) := by
  have hfetch := fetch_withPlan hd
  obtain ⟨hf, _⟩ | ⟨i, u, hf, h⟩ := step_next_cases h
  · rw [hf] at hfetch
    exact step_of_fetch_idle hfetch
  · rw [hf] at hfetch
    exact (step_of_fetch_run hfetch).trans (exec_withPlan h)

/-- A step does not read the event port, which it quiets before anything else (R200). -/
theorem step_evt (s : State) (e : Option Event) : step { s with evt := e } = step s := rfl

/-! ### Waiting steps -/

theorem isWait_iff : isWait d = true ↔ d.rst = false ∧ d.inValid = false ∧ d.recReady = false := by
  simp [isWait, and_assoc]

/-- A step in which nothing comes at the ports only uses up its levels. -/
theorem step_of_isWait (hw : cfgWf s.cfg = true) (h : isWait (driveNow s) = true) : step s = .next s.beginStep := by
  obtain ⟨hr, hv, hy⟩ := isWait_iff.mp h
  cases hp : s.pendValid with
  | true => exact step_of_stalled hw hp hr hy
  | false => exact step_of_fetch_idle ((fetch_of_noHandshake hw hr (.inl hp)).trans (fetchByte_of_noOffer (.inl hv)))

/-- The plan without its waiting steps (R227). -/
def withoutWaits (plan : List Drive) : List Drive := plan.filter fun d => !isWait d

theorem withoutWaits_cons_of_isWait (h : isWait d = true) : withoutWaits (d :: plan) = withoutWaits plan :=
  List.filter_cons_of_neg (by simp [h])

theorem withoutWaits_cons_of_not_isWait (h : isWait d = false) : withoutWaits (d :: plan) = d :: withoutWaits plan :=
  List.filter_cons_of_pos (by simp [h])

/-- The run without its waiting steps may start with any event on the port: a left-out step at the beginning would have quieted
it. -/
theorem run_withoutWaits (hw : cfgWf s.cfg = true) (hi : Safety.Inv s) (hplan : s.drive = plan) (e : Option Event) :
    ∃ t u, Host.Core.run Sys2Proof.core plan.length s = .next t ∧
      Host.Core.run Sys2Proof.core (withoutWaits plan).length { s.withPlan (withoutWaits plan) with evt := e } = .next u ∧
      t = { u with evt := t.evt } := by
  induction plan generalizing s e with
  | nil => exact ⟨s, _, rfl, rfl, (State.withPlan_of_drive hplan).symm⟩
  | cons d ds ih =>
    have hnow : driveNow s = d := by rw [driveNow, hplan, List.headD_cons]
    cases hwait : isWait d with
    | true =>
      have hstep : step s = .next s.beginStep := step_of_isWait hw (hnow ▸ hwait)
      have htail : s.beginStep.drive = ds := by rw [State.beginStep_drive, hplan, List.tail_cons]
      obtain ⟨t, u, ht, hu, heq⟩ := ih (s := s.beginStep) hw (inv_beginStep hi) htail e
      rw [withoutWaits_cons_of_isWait hwait]
      exact ⟨t, u, (run_succ hstep _).trans ht, hu, heq⟩
    | false =>
      obtain ⟨v, hv⟩ := nothingStopsTheMachine s hw hi
      have hcfg : v.cfg = s.cfg := configurationIsNeverWritten.2 s v hv
      have htail : v.drive = ds := (step_drive hv).trans (by rw [hplan, List.tail_cons])
      have hv' : step { s.withPlan (d :: withoutWaits ds) with evt := e } = .next (v.withPlan (withoutWaits ds)) :=
        (step_evt _ e).trans (step_withPlan hnow.symm hv)
      obtain ⟨t, u, ht, hu, heq⟩ := ih (hcfg ▸ hw) (stepKeepsTheInvariant s v hi hv) htail v.evt
      rw [withoutWaits_cons_of_not_isWait hwait]
      exact ⟨t, u, (run_succ hv _).trans ht, (run_succ hv' _).trans hu, heq⟩

/-- Settles O57: the run without its waiting steps, started with the state's own event. -/
theorem waitingStepsDoNotChangeARun : Obligations.WaitingStepsDoNotChangeARun :=
  fun _ s hw hi hplan => run_withoutWaits hw hi hplan s.evt

end Sys2Proof.Machine
